-- ==== Sys2Proof/Word.lean ====
section
/-! DEFINITION. The value types of the core: words, bytes and register numbers (spec 00_scope R8, R9, R42). -/

namespace Sys2Proof

/-- A 32-bit register value or address (R9). -/
abbrev Word := BitVec 32

/-- The smallest addressable unit of memory (R90). -/
abbrev Byte := BitVec 8

/-- A 4-bit register field of an instruction, always in 0 … 15 (R42). -/
abbrev RegNo := BitVec 4

/-- A program status register: CPSR or an SPSR, a 32-bit word with the fields of R46. -/
abbrev Psr := BitVec 32

end Sys2Proof
end

