-- ==== Sys2Proof/Config.lean ====
section
/-! DEFINITION. The implementation parameters of the core (spec 00_scope R7, 92_eei_decisions OPEN parameters).
MEM_SIZE, BIG_ENDIAN and UNROUTED_POLICY are OPEN: they stand in State as `params`, which no step changes, so that a
statement about every state holds for every value of them. INITIAL_STATE is the rest of State itself. -/

namespace Sys2Proof

/-- UNROUTED_POLICY (R380): what the ARMv5T instructions that the source never routes do. -/
inductive UnroutedPolicy
  | refuse
  | undefined
  | architectural
deriving DecidableEq, Repr

/-- The OPEN parameters a run is made with; fixed for the life of the memory and the run (R91, R94, R380). -/
structure Params where
  /-- MEM_SIZE: the byte size of the backing store, 0 < MEM_SIZE ≤ 2^32 (R91). -/
  memSize : Nat
  /-- BIG_ENDIAN: the byte order of every multi-byte access, fetch and data alike (R94). -/
  bigEndian : Bool
  /-- UNROUTED_POLICY (R380). -/
  unrouted : UnroutedPolicy
deriving DecidableEq, Repr

/-- The parameters of a core that is given no policy: UNROUTED_POLICY has the default `Refuse` (R7, R380). MEM_SIZE and
BIG_ENDIAN have no default, so they stay arguments (spec 92_eei_decisions, OPEN parameters). -/
def Params.default (memSize : Nat) (bigEndian : Bool) : Params :=
  { memSize := memSize, bigEndian := bigEndian, unrouted := .refuse }

/-- The arguments that `State.reset` gives for the OPEN parameters: those that spec 95_test_vectors section 0 works with.
The policy is given, and is not the default. DESIGN CHOICE, assumption log 3. -/
def Params.given : Params :=
  { Params.default 0x10000 false with unrouted := .architectural }

/-- MEM_SIZE is a legal size (R91). -/
def Params.wf (p : Params) : Bool :=
  decide (0 < p.memSize) && decide (p.memSize ≤ 2 ^ 32)

/-- What a byte of memory that nothing has written reads as. DESIGN CHOICE, assumption log 2. -/
def unlistedByte : Byte := 0#8

/-- The comment field of the halt sentinel (R350). -/
def haltComment : BitVec 24 := 0x123456#24

end Sys2Proof
end

