-- ==== Sys2Proof/Syntax.lean ====
section
/-! DEFINITION. The instruction syntax: one constructor of `Instr` per row of spec/opcode_table.json, in the table's
order. A constructor holds every field of its row that the spec gives a meaning; fields the spec calls SBZ or SBO are
not checked and not kept (R139, assumption log 5). -/

namespace Sys2Proof

/-- The condition codes 0000 … 1110 (R176). The code 1111 names no condition: a word that holds it is one of the two
rows `blxImm` and `undefCond1111` (R174). -/
inductive Cond
  | eq | ne | cs | cc | mi | pl | vs | vc | hi | ls | ge | lt | gt | le | al
deriving DecidableEq, Repr

/-- The shift kinds of R125: LSL, LSR, ASR, ROR (ROR with an immediate amount 0 is RRX). -/
inductive ShiftKind
  | lsl | lsr | asr | ror
deriving DecidableEq, Repr

/-- The four (P, W) pairs of addressing modes 2 and 3 (R251, R280). `postW` is (P, W) = (0, 1): the T forms in mode 2,
UNPREDICTABLE (U14) in mode 3. -/
inductive Index
  | offset | preIndexed | postIndexed | postW
deriving DecidableEq, Repr

/-- The four addressing variants of LDM and STM, (P, U) = (0,1), (1,1), (0,0), (1,0) (R310). -/
inductive BlockMode
  | ia | ib | da | db
deriving DecidableEq, Repr

/-- The sixteen data-processing operations in the order of their opcode values (R124). -/
inductive DpOp
  | and | eor | sub | rsb | add | adc | sbc | rsc | tst | teq | cmp | cmn | orr | mov | bic | mvn
deriving DecidableEq, Repr

/-- The instructions, one constructor per row of spec/opcode_table.json. -/
inductive Instr
  /-- BLX_imm (R393). -/
  | blxImm (h : Bool) (imm : BitVec 24)
  /-- UNDEF_cond1111 (R174). -/
  | undefCond1111 (rest : BitVec 28)
  /-- MUL (R381). -/
  | mul (c : Cond) (s : Bool) (rd rs rm : RegNo)
  /-- MLA (R382). -/
  | mla (c : Cond) (s : Bool) (rd rn rs rm : RegNo)
  /-- UMULL (R383). -/
  | umull (c : Cond) (s : Bool) (rdHi rdLo rs rm : RegNo)
  /-- UMLAL (R384). -/
  | umlal (c : Cond) (s : Bool) (rdHi rdLo rs rm : RegNo)
  /-- SMULL (R385). -/
  | smull (c : Cond) (s : Bool) (rdHi rdLo rs rm : RegNo)
  /-- SMLAL (R386). -/
  | smlal (c : Cond) (s : Bool) (rdHi rdLo rs rm : RegNo)
  /-- SWP (R387). -/
  | swp (c : Cond) (rn rd rm : RegNo)
  /-- SWPB (R388). -/
  | swpb (c : Cond) (rn rd rm : RegNo)
  /-- UNDEF_mulswp (R354). -/
  | undefMulswp (c : Cond) (op : BitVec 5) (mid : BitVec 12) (low : BitVec 4)
  /-- LDRH_imm (R282). -/
  | ldrhImm (c : Cond) (idx : Index) (u : Bool) (rn rd : RegNo) (off : BitVec 8)
  /-- LDRH_reg (R282). -/
  | ldrhReg (c : Cond) (idx : Index) (u : Bool) (rn rd rm : RegNo)
  /-- STRH_imm (R283). -/
  | strhImm (c : Cond) (idx : Index) (u : Bool) (rn rd : RegNo) (off : BitVec 8)
  /-- STRH_reg (R283). -/
  | strhReg (c : Cond) (idx : Index) (u : Bool) (rn rd rm : RegNo)
  /-- LDRSB_imm (R284). -/
  | ldrsbImm (c : Cond) (idx : Index) (u : Bool) (rn rd : RegNo) (off : BitVec 8)
  /-- LDRSB_reg (R284). -/
  | ldrsbReg (c : Cond) (idx : Index) (u : Bool) (rn rd rm : RegNo)
  /-- LDRSH_imm (R285). -/
  | ldrshImm (c : Cond) (idx : Index) (u : Bool) (rn rd : RegNo) (off : BitVec 8)
  /-- LDRSH_reg (R285). -/
  | ldrshReg (c : Cond) (idx : Index) (u : Bool) (rn rd rm : RegNo)
  /-- LDRD_imm (R286). -/
  | ldrdImm (c : Cond) (idx : Index) (u : Bool) (rn rd : RegNo) (off : BitVec 8)
  /-- LDRD_reg (R286). -/
  | ldrdReg (c : Cond) (idx : Index) (u : Bool) (rn rd rm : RegNo)
  /-- STRD_imm (R287). -/
  | strdImm (c : Cond) (idx : Index) (u : Bool) (rn rd : RegNo) (off : BitVec 8)
  /-- STRD_reg (R287). -/
  | strdReg (c : Cond) (idx : Index) (u : Bool) (rn rd rm : RegNo)
  /-- MRS_CPSR (R342). -/
  | mrsCpsr (c : Cond) (rd : RegNo)
  /-- MRS_SPSR (R342). -/
  | mrsSpsr (c : Cond) (rd : RegNo)
  /-- MSR_CPSR_reg (R348). -/
  | msrCpsrReg (c : Cond) (mask : BitVec 4) (rm : RegNo)
  /-- MSR_SPSR_reg (R348). -/
  | msrSpsrReg (c : Cond) (mask : BitVec 4) (rm : RegNo)
  /-- BX (R389). -/
  | bx (c : Cond) (rm : RegNo)
  /-- BLX_reg (R390). -/
  | blxReg (c : Cond) (rm : RegNo)
  /-- CLZ (R391). -/
  | clz (c : Cond) (rd rm : RegNo)
  /-- BKPT (R392). -/
  | bkpt (c : Cond) (imm : BitVec 16)
  /-- UNDEF_misc (R354). -/
  | undefMisc (c : Cond) (op : BitVec 2) (rest : BitVec 20)
  /-- AND_imm_shift (R208). -/
  | andImmShift (c : Cond) (s : Bool) (rd rn : RegNo) (k : ShiftKind) (amt : BitVec 5) (rm : RegNo)
  /-- AND_reg_shift (R208). -/
  | andRegShift (c : Cond) (s : Bool) (rd rn : RegNo) (k : ShiftKind) (rs rm : RegNo)
  /-- EOR_imm_shift (R209). -/
  | eorImmShift (c : Cond) (s : Bool) (rd rn : RegNo) (k : ShiftKind) (amt : BitVec 5) (rm : RegNo)
  /-- EOR_reg_shift (R209). -/
  | eorRegShift (c : Cond) (s : Bool) (rd rn : RegNo) (k : ShiftKind) (rs rm : RegNo)
  /-- SUB_imm_shift (R210). -/
  | subImmShift (c : Cond) (s : Bool) (rd rn : RegNo) (k : ShiftKind) (amt : BitVec 5) (rm : RegNo)
  /-- SUB_reg_shift (R210). -/
  | subRegShift (c : Cond) (s : Bool) (rd rn : RegNo) (k : ShiftKind) (rs rm : RegNo)
  /-- RSB_imm_shift (R211). -/
  | rsbImmShift (c : Cond) (s : Bool) (rd rn : RegNo) (k : ShiftKind) (amt : BitVec 5) (rm : RegNo)
  /-- RSB_reg_shift (R211). -/
  | rsbRegShift (c : Cond) (s : Bool) (rd rn : RegNo) (k : ShiftKind) (rs rm : RegNo)
  /-- ADD_imm_shift (R212). -/
  | addImmShift (c : Cond) (s : Bool) (rd rn : RegNo) (k : ShiftKind) (amt : BitVec 5) (rm : RegNo)
  /-- ADD_reg_shift (R212). -/
  | addRegShift (c : Cond) (s : Bool) (rd rn : RegNo) (k : ShiftKind) (rs rm : RegNo)
  /-- ADC_imm_shift (R213). -/
  | adcImmShift (c : Cond) (s : Bool) (rd rn : RegNo) (k : ShiftKind) (amt : BitVec 5) (rm : RegNo)
  /-- ADC_reg_shift (R213). -/
  | adcRegShift (c : Cond) (s : Bool) (rd rn : RegNo) (k : ShiftKind) (rs rm : RegNo)
  /-- SBC_imm_shift (R214). -/
  | sbcImmShift (c : Cond) (s : Bool) (rd rn : RegNo) (k : ShiftKind) (amt : BitVec 5) (rm : RegNo)
  /-- SBC_reg_shift (R214). -/
  | sbcRegShift (c : Cond) (s : Bool) (rd rn : RegNo) (k : ShiftKind) (rs rm : RegNo)
  /-- RSC_imm_shift (R215). -/
  | rscImmShift (c : Cond) (s : Bool) (rd rn : RegNo) (k : ShiftKind) (amt : BitVec 5) (rm : RegNo)
  /-- RSC_reg_shift (R215). -/
  | rscRegShift (c : Cond) (s : Bool) (rd rn : RegNo) (k : ShiftKind) (rs rm : RegNo)
  /-- TST_imm_shift (R216). -/
  | tstImmShift (c : Cond) (rn : RegNo) (k : ShiftKind) (amt : BitVec 5) (rm : RegNo)
  /-- TST_reg_shift (R216). -/
  | tstRegShift (c : Cond) (rn : RegNo) (k : ShiftKind) (rs rm : RegNo)
  /-- TEQ_imm_shift (R217). -/
  | teqImmShift (c : Cond) (rn : RegNo) (k : ShiftKind) (amt : BitVec 5) (rm : RegNo)
  /-- TEQ_reg_shift (R217). -/
  | teqRegShift (c : Cond) (rn : RegNo) (k : ShiftKind) (rs rm : RegNo)
  /-- CMP_imm_shift (R218). -/
  | cmpImmShift (c : Cond) (rn : RegNo) (k : ShiftKind) (amt : BitVec 5) (rm : RegNo)
  /-- CMP_reg_shift (R218). -/
  | cmpRegShift (c : Cond) (rn : RegNo) (k : ShiftKind) (rs rm : RegNo)
  /-- CMN_imm_shift (R219). -/
  | cmnImmShift (c : Cond) (rn : RegNo) (k : ShiftKind) (amt : BitVec 5) (rm : RegNo)
  /-- CMN_reg_shift (R219). -/
  | cmnRegShift (c : Cond) (rn : RegNo) (k : ShiftKind) (rs rm : RegNo)
  /-- ORR_imm_shift (R220). -/
  | orrImmShift (c : Cond) (s : Bool) (rd rn : RegNo) (k : ShiftKind) (amt : BitVec 5) (rm : RegNo)
  /-- ORR_reg_shift (R220). -/
  | orrRegShift (c : Cond) (s : Bool) (rd rn : RegNo) (k : ShiftKind) (rs rm : RegNo)
  /-- MOV_imm_shift (R221). -/
  | movImmShift (c : Cond) (s : Bool) (rd : RegNo) (k : ShiftKind) (amt : BitVec 5) (rm : RegNo)
  /-- MOV_reg_shift (R221). -/
  | movRegShift (c : Cond) (s : Bool) (rd : RegNo) (k : ShiftKind) (rs rm : RegNo)
  /-- BIC_imm_shift (R222). -/
  | bicImmShift (c : Cond) (s : Bool) (rd rn : RegNo) (k : ShiftKind) (amt : BitVec 5) (rm : RegNo)
  /-- BIC_reg_shift (R222). -/
  | bicRegShift (c : Cond) (s : Bool) (rd rn : RegNo) (k : ShiftKind) (rs rm : RegNo)
  /-- MVN_imm_shift (R223). -/
  | mvnImmShift (c : Cond) (s : Bool) (rd : RegNo) (k : ShiftKind) (amt : BitVec 5) (rm : RegNo)
  /-- MVN_reg_shift (R223). -/
  | mvnRegShift (c : Cond) (s : Bool) (rd : RegNo) (k : ShiftKind) (rs rm : RegNo)
  /-- MSR_CPSR_imm (R347). -/
  | msrCpsrImm (c : Cond) (mask rot : BitVec 4) (imm : BitVec 8)
  /-- MSR_SPSR_imm (R347). -/
  | msrSpsrImm (c : Cond) (mask rot : BitVec 4) (imm : BitVec 8)
  /-- UNDEF_class1_move (R354). -/
  | undefClass1Move (c : Cond) (b22 : Bool) (rest : BitVec 20)
  /-- AND_imm (R208). -/
  | andImm (c : Cond) (s : Bool) (rd rn : RegNo) (rot : BitVec 4) (imm : BitVec 8)
  /-- EOR_imm (R209). -/
  | eorImm (c : Cond) (s : Bool) (rd rn : RegNo) (rot : BitVec 4) (imm : BitVec 8)
  /-- SUB_imm (R210). -/
  | subImm (c : Cond) (s : Bool) (rd rn : RegNo) (rot : BitVec 4) (imm : BitVec 8)
  /-- RSB_imm (R211). -/
  | rsbImm (c : Cond) (s : Bool) (rd rn : RegNo) (rot : BitVec 4) (imm : BitVec 8)
  /-- ADD_imm (R212). -/
  | addImm (c : Cond) (s : Bool) (rd rn : RegNo) (rot : BitVec 4) (imm : BitVec 8)
  /-- ADC_imm (R213). -/
  | adcImm (c : Cond) (s : Bool) (rd rn : RegNo) (rot : BitVec 4) (imm : BitVec 8)
  /-- SBC_imm (R214). -/
  | sbcImm (c : Cond) (s : Bool) (rd rn : RegNo) (rot : BitVec 4) (imm : BitVec 8)
  /-- RSC_imm (R215). -/
  | rscImm (c : Cond) (s : Bool) (rd rn : RegNo) (rot : BitVec 4) (imm : BitVec 8)
  /-- TST_imm (R216). -/
  | tstImm (c : Cond) (rn : RegNo) (rot : BitVec 4) (imm : BitVec 8)
  /-- TEQ_imm (R217). -/
  | teqImm (c : Cond) (rn : RegNo) (rot : BitVec 4) (imm : BitVec 8)
  /-- CMP_imm (R218). -/
  | cmpImm (c : Cond) (rn : RegNo) (rot : BitVec 4) (imm : BitVec 8)
  /-- CMN_imm (R219). -/
  | cmnImm (c : Cond) (rn : RegNo) (rot : BitVec 4) (imm : BitVec 8)
  /-- ORR_imm (R220). -/
  | orrImm (c : Cond) (s : Bool) (rd rn : RegNo) (rot : BitVec 4) (imm : BitVec 8)
  /-- MOV_imm (R221). -/
  | movImm (c : Cond) (s : Bool) (rd : RegNo) (rot : BitVec 4) (imm : BitVec 8)
  /-- BIC_imm (R222). -/
  | bicImm (c : Cond) (s : Bool) (rd rn : RegNo) (rot : BitVec 4) (imm : BitVec 8)
  /-- MVN_imm (R223). -/
  | mvnImm (c : Cond) (s : Bool) (rd : RegNo) (rot : BitVec 4) (imm : BitVec 8)
  /-- UNDEF_class3 (R354). -/
  | undefClass3 (c : Cond) (hi : BitVec 20) (low : BitVec 4)
  /-- LDRT_imm (R257). -/
  | ldrtImm (c : Cond) (u : Bool) (rn rd : RegNo) (off : BitVec 12)
  /-- LDRBT_imm (R259). -/
  | ldrbtImm (c : Cond) (u : Bool) (rn rd : RegNo) (off : BitVec 12)
  /-- STRT_imm (R258). -/
  | strtImm (c : Cond) (u : Bool) (rn rd : RegNo) (off : BitVec 12)
  /-- STRBT_imm (R260). -/
  | strbtImm (c : Cond) (u : Bool) (rn rd : RegNo) (off : BitVec 12)
  /-- LDR_imm (R253). -/
  | ldrImm (c : Cond) (idx : Index) (u : Bool) (rn rd : RegNo) (off : BitVec 12)
  /-- LDRB_imm (R255). -/
  | ldrbImm (c : Cond) (idx : Index) (u : Bool) (rn rd : RegNo) (off : BitVec 12)
  /-- STR_imm (R254). -/
  | strImm (c : Cond) (idx : Index) (u : Bool) (rn rd : RegNo) (off : BitVec 12)
  /-- STRB_imm (R256). -/
  | strbImm (c : Cond) (idx : Index) (u : Bool) (rn rd : RegNo) (off : BitVec 12)
  /-- LDRT_reg (R257). -/
  | ldrtReg (c : Cond) (u : Bool) (rn rd : RegNo) (k : ShiftKind) (amt : BitVec 5) (rm : RegNo)
  /-- LDRBT_reg (R259). -/
  | ldrbtReg (c : Cond) (u : Bool) (rn rd : RegNo) (k : ShiftKind) (amt : BitVec 5) (rm : RegNo)
  /-- STRT_reg (R258). -/
  | strtReg (c : Cond) (u : Bool) (rn rd : RegNo) (k : ShiftKind) (amt : BitVec 5) (rm : RegNo)
  /-- STRBT_reg (R260). -/
  | strbtReg (c : Cond) (u : Bool) (rn rd : RegNo) (k : ShiftKind) (amt : BitVec 5) (rm : RegNo)
  /-- LDR_reg (R253). -/
  | ldrReg (c : Cond) (idx : Index) (u : Bool) (rn rd : RegNo) (k : ShiftKind) (amt : BitVec 5) (rm : RegNo)
  /-- LDRB_reg (R255). -/
  | ldrbReg (c : Cond) (idx : Index) (u : Bool) (rn rd : RegNo) (k : ShiftKind) (amt : BitVec 5) (rm : RegNo)
  /-- STR_reg (R254). -/
  | strReg (c : Cond) (idx : Index) (u : Bool) (rn rd : RegNo) (k : ShiftKind) (amt : BitVec 5) (rm : RegNo)
  /-- STRB_reg (R256). -/
  | strbReg (c : Cond) (idx : Index) (u : Bool) (rn rd : RegNo) (k : ShiftKind) (amt : BitVec 5) (rm : RegNo)
  /-- LDM1 (R313). -/
  | ldm1 (c : Cond) (md : BlockMode) (w : Bool) (rn : RegNo) (list : BitVec 16)
  /-- LDM2 (R314). -/
  | ldm2 (c : Cond) (md : BlockMode) (w : Bool) (rn : RegNo) (list : BitVec 16)
  /-- LDM3 (R315). -/
  | ldm3 (c : Cond) (md : BlockMode) (w : Bool) (rn : RegNo) (list : BitVec 16)
  /-- STM1 (R316). -/
  | stm1 (c : Cond) (md : BlockMode) (w : Bool) (rn : RegNo) (list : BitVec 16)
  /-- STM2 (R317). -/
  | stm2 (c : Cond) (md : BlockMode) (w : Bool) (rn : RegNo) (list : BitVec 16)
  /-- B (R340). -/
  | b (c : Cond) (imm : BitVec 24)
  /-- BL (R341). -/
  | bl (c : Cond) (imm : BitVec 24)
  /-- LDC (R351). -/
  | ldc (c : Cond) (p u n w : Bool) (rn : RegNo) (crd cp : BitVec 4) (off : BitVec 8)
  /-- STC (R351). -/
  | stc (c : Cond) (p u n w : Bool) (rn : RegNo) (crd cp : BitVec 4) (off : BitVec 8)
  /-- SWI_halt (R350). -/
  | swiHalt (c : Cond)
  /-- SWI (R349). -/
  | swi (c : Cond) (imm : BitVec 24)
  /-- CDP (R352). -/
  | cdp (c : Cond) (op1 crn crd cp : BitVec 4) (op2 : BitVec 3) (crm : BitVec 4)
  /-- MRC (R353). -/
  | mrc (c : Cond) (op1 : BitVec 3) (crn : BitVec 4) (rd : RegNo) (cp : BitVec 4) (op2 : BitVec 3) (crm : BitVec 4)
  /-- MCR (R353). -/
  | mcr (c : Cond) (op1 : BitVec 3) (crn : BitVec 4) (rd : RegNo) (cp : BitVec 4) (op2 : BitVec 3) (crm : BitVec 4)
deriving DecidableEq, Repr

/-- The position of the instruction's row in spec/opcode_table.json (its `order`). -/
def Instr.row : Instr → Nat
  | .blxImm .. => 1
  | .undefCond1111 .. => 2
  | .mul .. => 3
  | .mla .. => 4
  | .umull .. => 5
  | .umlal .. => 6
  | .smull .. => 7
  | .smlal .. => 8
  | .swp .. => 9
  | .swpb .. => 10
  | .undefMulswp .. => 11
  | .ldrhImm .. => 12
  | .ldrhReg .. => 13
  | .strhImm .. => 14
  | .strhReg .. => 15
  | .ldrsbImm .. => 16
  | .ldrsbReg .. => 17
  | .ldrshImm .. => 18
  | .ldrshReg .. => 19
  | .ldrdImm .. => 20
  | .ldrdReg .. => 21
  | .strdImm .. => 22
  | .strdReg .. => 23
  | .mrsCpsr .. => 24
  | .mrsSpsr .. => 25
  | .msrCpsrReg .. => 26
  | .msrSpsrReg .. => 27
  | .bx .. => 28
  | .blxReg .. => 29
  | .clz .. => 30
  | .bkpt .. => 31
  | .undefMisc .. => 32
  | .andImmShift .. => 33
  | .andRegShift .. => 34
  | .eorImmShift .. => 35
  | .eorRegShift .. => 36
  | .subImmShift .. => 37
  | .subRegShift .. => 38
  | .rsbImmShift .. => 39
  | .rsbRegShift .. => 40
  | .addImmShift .. => 41
  | .addRegShift .. => 42
  | .adcImmShift .. => 43
  | .adcRegShift .. => 44
  | .sbcImmShift .. => 45
  | .sbcRegShift .. => 46
  | .rscImmShift .. => 47
  | .rscRegShift .. => 48
  | .tstImmShift .. => 49
  | .tstRegShift .. => 50
  | .teqImmShift .. => 51
  | .teqRegShift .. => 52
  | .cmpImmShift .. => 53
  | .cmpRegShift .. => 54
  | .cmnImmShift .. => 55
  | .cmnRegShift .. => 56
  | .orrImmShift .. => 57
  | .orrRegShift .. => 58
  | .movImmShift .. => 59
  | .movRegShift .. => 60
  | .bicImmShift .. => 61
  | .bicRegShift .. => 62
  | .mvnImmShift .. => 63
  | .mvnRegShift .. => 64
  | .msrCpsrImm .. => 65
  | .msrSpsrImm .. => 66
  | .undefClass1Move .. => 67
  | .andImm .. => 68
  | .eorImm .. => 69
  | .subImm .. => 70
  | .rsbImm .. => 71
  | .addImm .. => 72
  | .adcImm .. => 73
  | .sbcImm .. => 74
  | .rscImm .. => 75
  | .tstImm .. => 76
  | .teqImm .. => 77
  | .cmpImm .. => 78
  | .cmnImm .. => 79
  | .orrImm .. => 80
  | .movImm .. => 81
  | .bicImm .. => 82
  | .mvnImm .. => 83
  | .undefClass3 .. => 84
  | .ldrtImm .. => 85
  | .ldrbtImm .. => 86
  | .strtImm .. => 87
  | .strbtImm .. => 88
  | .ldrImm .. => 89
  | .ldrbImm .. => 90
  | .strImm .. => 91
  | .strbImm .. => 92
  | .ldrtReg .. => 93
  | .ldrbtReg .. => 94
  | .strtReg .. => 95
  | .strbtReg .. => 96
  | .ldrReg .. => 97
  | .ldrbReg .. => 98
  | .strReg .. => 99
  | .strbReg .. => 100
  | .ldm1 .. => 101
  | .ldm2 .. => 102
  | .ldm3 .. => 103
  | .stm1 .. => 104
  | .stm2 .. => 105
  | .b .. => 106
  | .bl .. => 107
  | .ldc .. => 108
  | .stc .. => 109
  | .swiHalt .. => 110
  | .swi .. => 111
  | .cdp .. => 112
  | .mrc .. => 113
  | .mcr .. => 114

/-- The condition an instruction executes under. The two rows of the cond = 1111 space have none (R174). -/
def Instr.cond? : Instr → Option Cond
  | .blxImm .. => none
  | .undefCond1111 .. => none
  | .mul c .. => some c
  | .mla c .. => some c
  | .umull c .. => some c
  | .umlal c .. => some c
  | .smull c .. => some c
  | .smlal c .. => some c
  | .swp c .. => some c
  | .swpb c .. => some c
  | .undefMulswp c .. => some c
  | .ldrhImm c .. => some c
  | .ldrhReg c .. => some c
  | .strhImm c .. => some c
  | .strhReg c .. => some c
  | .ldrsbImm c .. => some c
  | .ldrsbReg c .. => some c
  | .ldrshImm c .. => some c
  | .ldrshReg c .. => some c
  | .ldrdImm c .. => some c
  | .ldrdReg c .. => some c
  | .strdImm c .. => some c
  | .strdReg c .. => some c
  | .mrsCpsr c .. => some c
  | .mrsSpsr c .. => some c
  | .msrCpsrReg c .. => some c
  | .msrSpsrReg c .. => some c
  | .bx c .. => some c
  | .blxReg c .. => some c
  | .clz c .. => some c
  | .bkpt c .. => some c
  | .undefMisc c .. => some c
  | .andImmShift c .. => some c
  | .andRegShift c .. => some c
  | .eorImmShift c .. => some c
  | .eorRegShift c .. => some c
  | .subImmShift c .. => some c
  | .subRegShift c .. => some c
  | .rsbImmShift c .. => some c
  | .rsbRegShift c .. => some c
  | .addImmShift c .. => some c
  | .addRegShift c .. => some c
  | .adcImmShift c .. => some c
  | .adcRegShift c .. => some c
  | .sbcImmShift c .. => some c
  | .sbcRegShift c .. => some c
  | .rscImmShift c .. => some c
  | .rscRegShift c .. => some c
  | .tstImmShift c .. => some c
  | .tstRegShift c .. => some c
  | .teqImmShift c .. => some c
  | .teqRegShift c .. => some c
  | .cmpImmShift c .. => some c
  | .cmpRegShift c .. => some c
  | .cmnImmShift c .. => some c
  | .cmnRegShift c .. => some c
  | .orrImmShift c .. => some c
  | .orrRegShift c .. => some c
  | .movImmShift c .. => some c
  | .movRegShift c .. => some c
  | .bicImmShift c .. => some c
  | .bicRegShift c .. => some c
  | .mvnImmShift c .. => some c
  | .mvnRegShift c .. => some c
  | .msrCpsrImm c .. => some c
  | .msrSpsrImm c .. => some c
  | .undefClass1Move c .. => some c
  | .andImm c .. => some c
  | .eorImm c .. => some c
  | .subImm c .. => some c
  | .rsbImm c .. => some c
  | .addImm c .. => some c
  | .adcImm c .. => some c
  | .sbcImm c .. => some c
  | .rscImm c .. => some c
  | .tstImm c .. => some c
  | .teqImm c .. => some c
  | .cmpImm c .. => some c
  | .cmnImm c .. => some c
  | .orrImm c .. => some c
  | .movImm c .. => some c
  | .bicImm c .. => some c
  | .mvnImm c .. => some c
  | .undefClass3 c .. => some c
  | .ldrtImm c .. => some c
  | .ldrbtImm c .. => some c
  | .strtImm c .. => some c
  | .strbtImm c .. => some c
  | .ldrImm c .. => some c
  | .ldrbImm c .. => some c
  | .strImm c .. => some c
  | .strbImm c .. => some c
  | .ldrtReg c .. => some c
  | .ldrbtReg c .. => some c
  | .strtReg c .. => some c
  | .strbtReg c .. => some c
  | .ldrReg c .. => some c
  | .ldrbReg c .. => some c
  | .strReg c .. => some c
  | .strbReg c .. => some c
  | .ldm1 c .. => some c
  | .ldm2 c .. => some c
  | .ldm3 c .. => some c
  | .stm1 c .. => some c
  | .stm2 c .. => some c
  | .b c .. => some c
  | .bl c .. => some c
  | .ldc c .. => some c
  | .stc c .. => some c
  | .swiHalt c .. => some c
  | .swi c .. => some c
  | .cdp c .. => some c
  | .mrc c .. => some c
  | .mcr c .. => some c

/-- The ARMv5T instructions that the source never routes: UNROUTED_POLICY decides them (R380). -/
def Instr.isUnrouted : Instr → Bool
  | .mul .. => true
  | .mla .. => true
  | .umull .. => true
  | .umlal .. => true
  | .smull .. => true
  | .smlal .. => true
  | .swp .. => true
  | .swpb .. => true
  | .bx .. => true
  | .blxReg .. => true
  | .clz .. => true
  | .bkpt .. => true
  | .blxImm .. => false
  | .undefCond1111 .. => false
  | .undefMulswp .. => false
  | .ldrhImm .. => false
  | .ldrhReg .. => false
  | .strhImm .. => false
  | .strhReg .. => false
  | .ldrsbImm .. => false
  | .ldrsbReg .. => false
  | .ldrshImm .. => false
  | .ldrshReg .. => false
  | .ldrdImm .. => false
  | .ldrdReg .. => false
  | .strdImm .. => false
  | .strdReg .. => false
  | .mrsCpsr .. => false
  | .mrsSpsr .. => false
  | .msrCpsrReg .. => false
  | .msrSpsrReg .. => false
  | .undefMisc .. => false
  | .andImmShift .. => false
  | .andRegShift .. => false
  | .eorImmShift .. => false
  | .eorRegShift .. => false
  | .subImmShift .. => false
  | .subRegShift .. => false
  | .rsbImmShift .. => false
  | .rsbRegShift .. => false
  | .addImmShift .. => false
  | .addRegShift .. => false
  | .adcImmShift .. => false
  | .adcRegShift .. => false
  | .sbcImmShift .. => false
  | .sbcRegShift .. => false
  | .rscImmShift .. => false
  | .rscRegShift .. => false
  | .tstImmShift .. => false
  | .tstRegShift .. => false
  | .teqImmShift .. => false
  | .teqRegShift .. => false
  | .cmpImmShift .. => false
  | .cmpRegShift .. => false
  | .cmnImmShift .. => false
  | .cmnRegShift .. => false
  | .orrImmShift .. => false
  | .orrRegShift .. => false
  | .movImmShift .. => false
  | .movRegShift .. => false
  | .bicImmShift .. => false
  | .bicRegShift .. => false
  | .mvnImmShift .. => false
  | .mvnRegShift .. => false
  | .msrCpsrImm .. => false
  | .msrSpsrImm .. => false
  | .undefClass1Move .. => false
  | .andImm .. => false
  | .eorImm .. => false
  | .subImm .. => false
  | .rsbImm .. => false
  | .addImm .. => false
  | .adcImm .. => false
  | .sbcImm .. => false
  | .rscImm .. => false
  | .tstImm .. => false
  | .teqImm .. => false
  | .cmpImm .. => false
  | .cmnImm .. => false
  | .orrImm .. => false
  | .movImm .. => false
  | .bicImm .. => false
  | .mvnImm .. => false
  | .undefClass3 .. => false
  | .ldrtImm .. => false
  | .ldrbtImm .. => false
  | .strtImm .. => false
  | .strbtImm .. => false
  | .ldrImm .. => false
  | .ldrbImm .. => false
  | .strImm .. => false
  | .strbImm .. => false
  | .ldrtReg .. => false
  | .ldrbtReg .. => false
  | .strtReg .. => false
  | .strbtReg .. => false
  | .ldrReg .. => false
  | .ldrbReg .. => false
  | .strReg .. => false
  | .strbReg .. => false
  | .ldm1 .. => false
  | .ldm2 .. => false
  | .ldm3 .. => false
  | .stm1 .. => false
  | .stm2 .. => false
  | .b .. => false
  | .bl .. => false
  | .ldc .. => false
  | .stc .. => false
  | .swiHalt .. => false
  | .swi .. => false
  | .cdp .. => false
  | .mrc .. => false
  | .mcr .. => false

end Sys2Proof
end

