-- ==== Sys2Proof/WellFormed.lean ====
section
/-! DEFINITION. Which instruction terms are encodings of their own row: the checks on fields that no type makes. -/

namespace Sys2Proof

/-- w[24:20] of a word of the multiply/swap space names one of the eight instructions there (R122, R138 item 7):
MUL, MLA and the long multiplies by w[27:24] = 0000 and w[23:21], SWP and SWPB by 1 0 B 0 0. -/
def isMulSwpOp (op : BitVec 5) : Bool :=
  (!op.getLsbD 4 && (op.extractLsb' 1 3 != 0b010#3 && op.extractLsb' 1 3 != 0b011#3)) ||
  op == 0b10000#5 || op == 0b10100#5

/-- w[22:21] and w[7:4] of a word of the miscellaneous space name MRS, MSR (register), BX, BLX (register), CLZ or BKPT,
or the word is in the multiply or extra load/store space (w[7] = w[4] = 1), which the tree tests first (R122). -/
def isMiscOp (op : BitVec 2) (b : BitVec 4) : Bool :=
  (b.getLsbD 3 && b.getLsbD 0) || b == 0b0000#4 ||
  (op == 0b01#2 && (b == 0b0001#4 || b == 0b0011#4 || b == 0b0111#4)) ||
  (op == 0b11#2 && b == 0b0001#4)

/-- A well-formed instruction: its fields are those of a word that decodes to its row. The rows of the undefined spaces
hold only what the rows before them leave (R122, R138); the non-T loads and stores are not (P, W) = (0, 1) (R253–R256);
LDM(2) and LDM(3) differ by R15 in the list (R312); SWI is not the halt sentinel (R350). -/
def Instr.wf : Instr → Bool
  | .blxImm .. => true
  | .undefCond1111 rest => rest.extractLsb' 25 3 != 0b101#3
  | .mul .. => true
  | .mla .. => true
  | .umull .. => true
  | .umlal .. => true
  | .smull .. => true
  | .smlal .. => true
  | .swp .. => true
  | .swpb .. => true
  | .undefMulswp _ op _ _ => !isMulSwpOp op
  | .ldrhImm .. => true
  | .ldrhReg .. => true
  | .strhImm .. => true
  | .strhReg .. => true
  | .ldrsbImm .. => true
  | .ldrsbReg .. => true
  | .ldrshImm .. => true
  | .ldrshReg .. => true
  | .ldrdImm .. => true
  | .ldrdReg .. => true
  | .strdImm .. => true
  | .strdReg .. => true
  | .mrsCpsr .. => true
  | .mrsSpsr .. => true
  | .msrCpsrReg .. => true
  | .msrSpsrReg .. => true
  | .bx .. => true
  | .blxReg .. => true
  | .clz .. => true
  | .bkpt .. => true
  | .undefMisc _ op rest => !isMiscOp op (rest.extractLsb' 4 4)
  | .andImmShift .. => true
  | .andRegShift .. => true
  | .eorImmShift .. => true
  | .eorRegShift .. => true
  | .subImmShift .. => true
  | .subRegShift .. => true
  | .rsbImmShift .. => true
  | .rsbRegShift .. => true
  | .addImmShift .. => true
  | .addRegShift .. => true
  | .adcImmShift .. => true
  | .adcRegShift .. => true
  | .sbcImmShift .. => true
  | .sbcRegShift .. => true
  | .rscImmShift .. => true
  | .rscRegShift .. => true
  | .tstImmShift .. => true
  | .tstRegShift .. => true
  | .teqImmShift .. => true
  | .teqRegShift .. => true
  | .cmpImmShift .. => true
  | .cmpRegShift .. => true
  | .cmnImmShift .. => true
  | .cmnRegShift .. => true
  | .orrImmShift .. => true
  | .orrRegShift .. => true
  | .movImmShift .. => true
  | .movRegShift .. => true
  | .bicImmShift .. => true
  | .bicRegShift .. => true
  | .mvnImmShift .. => true
  | .mvnRegShift .. => true
  | .msrCpsrImm .. => true
  | .msrSpsrImm .. => true
  | .undefClass1Move .. => true
  | .andImm .. => true
  | .eorImm .. => true
  | .subImm .. => true
  | .rsbImm .. => true
  | .addImm .. => true
  | .adcImm .. => true
  | .sbcImm .. => true
  | .rscImm .. => true
  | .tstImm .. => true
  | .teqImm .. => true
  | .cmpImm .. => true
  | .cmnImm .. => true
  | .orrImm .. => true
  | .movImm .. => true
  | .bicImm .. => true
  | .mvnImm .. => true
  | .undefClass3 .. => true
  | .ldrtImm .. => true
  | .ldrbtImm .. => true
  | .strtImm .. => true
  | .strbtImm .. => true
  | .ldrImm _ idx _ _ _ _ => idx != .postW
  | .ldrbImm _ idx _ _ _ _ => idx != .postW
  | .strImm _ idx _ _ _ _ => idx != .postW
  | .strbImm _ idx _ _ _ _ => idx != .postW
  | .ldrtReg .. => true
  | .ldrbtReg .. => true
  | .strtReg .. => true
  | .strbtReg .. => true
  | .ldrReg _ idx _ _ _ _ _ _ => idx != .postW
  | .ldrbReg _ idx _ _ _ _ _ _ => idx != .postW
  | .strReg _ idx _ _ _ _ _ _ => idx != .postW
  | .strbReg _ idx _ _ _ _ _ _ => idx != .postW
  | .ldm1 .. => true
  | .ldm2 _ _ _ _ list => !list.getLsbD 15
  | .ldm3 _ _ _ _ list => list.getLsbD 15
  | .stm1 .. => true
  | .stm2 .. => true
  | .b .. => true
  | .bl .. => true
  | .ldc .. => true
  | .stc .. => true
  | .swiHalt .. => true
  | .swi _ imm => imm != haltComment
  | .cdp .. => true
  | .mrc .. => true
  | .mcr .. => true

end Sys2Proof
end

