-- ==== Sys2Proof/Decode.lean ====
section
/-! DEFINITION. The decoder (spec 30_encoding R120–R141) and, after it, the encoder written from the same formats.
`decodeWord` is the decode tree of R122 on one 32-bit word; it is total. `decode` reads that word from bytes in memory
order and rejects, by name, only a list with fewer than four bytes. -/

namespace Sys2Proof

/-! ## Fields of a word, and bytes in memory order -/

/-- `w[lo + n - 1 : lo]` (R8). -/
def bits (w : Word) (lo n : Nat) : BitVec n := w.extractLsb' lo n

/-- `w[i]` (R8). -/
def bit (w : Word) (i : Nat) : Bool := w.getLsbD i

/-- The word with the field `x` at bit `lo` and 0 elsewhere. -/
def place {n : Nat} (x : BitVec n) (lo : Nat) : Word := x.setWidth 32 <<< lo

/-- The word whose bytes, the least significant first, are `bs` (R94 with BIG_ENDIAN = false). -/
def littleEndian : List Byte → Word
  | [] => 0#32
  | b :: bs => (littleEndian bs <<< 8) ||| b.setWidth 32

/-- The `n` low bytes of a word, the least significant first. -/
def littleEndianBytes : Nat → Word → List Byte
  | 0, _ => []
  | n + 1, v => v.setWidth 8 :: littleEndianBytes n (v >>> 8)

/-- The value of bytes read at rising addresses, under the byte order of R94, zero-extended. -/
def assemble (bigEndian : Bool) (bs : List Byte) : Word :=
  littleEndian (if bigEndian then bs.reverse else bs)

/-- The bytes, at rising addresses, that a store of the `n` low bytes of `v` writes (R94). -/
def disassemble (bigEndian : Bool) (n : Nat) (v : Word) : List Byte :=
  if bigEndian then (littleEndianBytes n v).reverse else littleEndianBytes n v

/-! ## Codes of the enumerated fields -/

/-- The condition code of R176. -/
def Cond.code : Cond → BitVec 4
  | .eq => 0 | .ne => 1 | .cs => 2 | .cc => 3 | .mi => 4 | .pl => 5 | .vs => 6 | .vc => 7
  | .hi => 8 | .ls => 9 | .ge => 10 | .lt => 11 | .gt => 12 | .le => 13 | .al => 14

/-- The condition a code names; 0b1111 names none (R174, R176). -/
def Cond.ofCode (b : BitVec 4) : Option Cond :=
  match b.toNat with
  | 0 => some .eq | 1 => some .ne | 2 => some .cs | 3 => some .cc
  | 4 => some .mi | 5 => some .pl | 6 => some .vs | 7 => some .vc
  | 8 => some .hi | 9 => some .ls | 10 => some .ge | 11 => some .lt
  | 12 => some .gt | 13 => some .le | 14 => some .al | _ => none

/-- The shift code of R125: LSL, LSR, ASR, ROR = 0, 1, 2, 3. -/
def ShiftKind.code : ShiftKind → BitVec 2
  | .lsl => 0 | .lsr => 1 | .asr => 2 | .ror => 3

def ShiftKind.ofCode (b : BitVec 2) : ShiftKind :=
  match b.toNat with
  | 0 => .lsl | 1 => .lsr | 2 => .asr | _ => .ror

/-- The P bit of an index mode (R251). -/
def Index.p : Index → Bool
  | .offset => true | .preIndexed => true | .postIndexed => false | .postW => false

/-- The W bit of an index mode (R251). -/
def Index.w : Index → Bool
  | .offset => false | .preIndexed => true | .postIndexed => false | .postW => true

def Index.ofPW (p w : Bool) : Index :=
  match p, w with
  | true, false => .offset
  | true, true => .preIndexed
  | false, false => .postIndexed
  | false, true => .postW

/-- The P bit of a block mode (R310). -/
def BlockMode.p : BlockMode → Bool
  | .ia => false | .ib => true | .da => false | .db => true

/-- The U bit of a block mode (R310). -/
def BlockMode.u : BlockMode → Bool
  | .ia => true | .ib => true | .da => false | .db => false

def BlockMode.ofPU (p u : Bool) : BlockMode :=
  match p, u with
  | false, true => .ia
  | true, true => .ib
  | false, false => .da
  | true, false => .db

/-- The opcode value of R124. -/
def DpOp.code : DpOp → BitVec 4
  | .and => 0 | .eor => 1 | .sub => 2 | .rsb => 3 | .add => 4 | .adc => 5 | .sbc => 6 | .rsc => 7
  | .tst => 8 | .teq => 9 | .cmp => 10 | .cmn => 11 | .orr => 12 | .mov => 13 | .bic => 14 | .mvn => 15

def DpOp.ofCode (b : BitVec 4) : DpOp :=
  match b.toNat with
  | 0 => .and | 1 => .eor | 2 => .sub | 3 => .rsb | 4 => .add | 5 => .adc | 6 => .sbc | 7 => .rsc
  | 8 => .tst | 9 => .teq | 10 => .cmp | 11 => .cmn | 12 => .orr | 13 => .mov | 14 => .bic | _ => .mvn

/-! ## The decode tree of R122 -/

/-- Data processing with an immediate operand (R123, R125 (a)); w[19:16] of MOV and MVN and w[15:12] of a comparison
are SBZ and not kept (R139). -/
def decodeDpImm (c : Cond) (w : Word) : Instr :=
  match DpOp.ofCode (bits w 21 4) with
  | .and => .andImm c (bit w 20) (bits w 12 4) (bits w 16 4) (bits w 8 4) (bits w 0 8)
  | .eor => .eorImm c (bit w 20) (bits w 12 4) (bits w 16 4) (bits w 8 4) (bits w 0 8)
  | .sub => .subImm c (bit w 20) (bits w 12 4) (bits w 16 4) (bits w 8 4) (bits w 0 8)
  | .rsb => .rsbImm c (bit w 20) (bits w 12 4) (bits w 16 4) (bits w 8 4) (bits w 0 8)
  | .add => .addImm c (bit w 20) (bits w 12 4) (bits w 16 4) (bits w 8 4) (bits w 0 8)
  | .adc => .adcImm c (bit w 20) (bits w 12 4) (bits w 16 4) (bits w 8 4) (bits w 0 8)
  | .sbc => .sbcImm c (bit w 20) (bits w 12 4) (bits w 16 4) (bits w 8 4) (bits w 0 8)
  | .rsc => .rscImm c (bit w 20) (bits w 12 4) (bits w 16 4) (bits w 8 4) (bits w 0 8)
  | .tst => .tstImm c (bits w 16 4) (bits w 8 4) (bits w 0 8)
  | .teq => .teqImm c (bits w 16 4) (bits w 8 4) (bits w 0 8)
  | .cmp => .cmpImm c (bits w 16 4) (bits w 8 4) (bits w 0 8)
  | .cmn => .cmnImm c (bits w 16 4) (bits w 8 4) (bits w 0 8)
  | .orr => .orrImm c (bit w 20) (bits w 12 4) (bits w 16 4) (bits w 8 4) (bits w 0 8)
  | .mov => .movImm c (bit w 20) (bits w 12 4) (bits w 8 4) (bits w 0 8)
  | .bic => .bicImm c (bit w 20) (bits w 12 4) (bits w 16 4) (bits w 8 4) (bits w 0 8)
  | .mvn => .mvnImm c (bit w 20) (bits w 12 4) (bits w 8 4) (bits w 0 8)

/-- Data processing with an immediate shift (R123, R125 (b)). -/
def decodeDpImmShift (c : Cond) (w : Word) : Instr :=
  match DpOp.ofCode (bits w 21 4) with
  | .and => .andImmShift c (bit w 20) (bits w 12 4) (bits w 16 4) (ShiftKind.ofCode (bits w 5 2)) (bits w 7 5) (bits w 0 4)
  | .eor => .eorImmShift c (bit w 20) (bits w 12 4) (bits w 16 4) (ShiftKind.ofCode (bits w 5 2)) (bits w 7 5) (bits w 0 4)
  | .sub => .subImmShift c (bit w 20) (bits w 12 4) (bits w 16 4) (ShiftKind.ofCode (bits w 5 2)) (bits w 7 5) (bits w 0 4)
  | .rsb => .rsbImmShift c (bit w 20) (bits w 12 4) (bits w 16 4) (ShiftKind.ofCode (bits w 5 2)) (bits w 7 5) (bits w 0 4)
  | .add => .addImmShift c (bit w 20) (bits w 12 4) (bits w 16 4) (ShiftKind.ofCode (bits w 5 2)) (bits w 7 5) (bits w 0 4)
  | .adc => .adcImmShift c (bit w 20) (bits w 12 4) (bits w 16 4) (ShiftKind.ofCode (bits w 5 2)) (bits w 7 5) (bits w 0 4)
  | .sbc => .sbcImmShift c (bit w 20) (bits w 12 4) (bits w 16 4) (ShiftKind.ofCode (bits w 5 2)) (bits w 7 5) (bits w 0 4)
  | .rsc => .rscImmShift c (bit w 20) (bits w 12 4) (bits w 16 4) (ShiftKind.ofCode (bits w 5 2)) (bits w 7 5) (bits w 0 4)
  | .tst => .tstImmShift c (bits w 16 4) (ShiftKind.ofCode (bits w 5 2)) (bits w 7 5) (bits w 0 4)
  | .teq => .teqImmShift c (bits w 16 4) (ShiftKind.ofCode (bits w 5 2)) (bits w 7 5) (bits w 0 4)
  | .cmp => .cmpImmShift c (bits w 16 4) (ShiftKind.ofCode (bits w 5 2)) (bits w 7 5) (bits w 0 4)
  | .cmn => .cmnImmShift c (bits w 16 4) (ShiftKind.ofCode (bits w 5 2)) (bits w 7 5) (bits w 0 4)
  | .orr => .orrImmShift c (bit w 20) (bits w 12 4) (bits w 16 4) (ShiftKind.ofCode (bits w 5 2)) (bits w 7 5) (bits w 0 4)
  | .mov => .movImmShift c (bit w 20) (bits w 12 4) (ShiftKind.ofCode (bits w 5 2)) (bits w 7 5) (bits w 0 4)
  | .bic => .bicImmShift c (bit w 20) (bits w 12 4) (bits w 16 4) (ShiftKind.ofCode (bits w 5 2)) (bits w 7 5) (bits w 0 4)
  | .mvn => .mvnImmShift c (bit w 20) (bits w 12 4) (ShiftKind.ofCode (bits w 5 2)) (bits w 7 5) (bits w 0 4)

/-- Data processing with a register shift (R123, R125 (c)). -/
def decodeDpRegShift (c : Cond) (w : Word) : Instr :=
  match DpOp.ofCode (bits w 21 4) with
  | .and => .andRegShift c (bit w 20) (bits w 12 4) (bits w 16 4) (ShiftKind.ofCode (bits w 5 2)) (bits w 8 4) (bits w 0 4)
  | .eor => .eorRegShift c (bit w 20) (bits w 12 4) (bits w 16 4) (ShiftKind.ofCode (bits w 5 2)) (bits w 8 4) (bits w 0 4)
  | .sub => .subRegShift c (bit w 20) (bits w 12 4) (bits w 16 4) (ShiftKind.ofCode (bits w 5 2)) (bits w 8 4) (bits w 0 4)
  | .rsb => .rsbRegShift c (bit w 20) (bits w 12 4) (bits w 16 4) (ShiftKind.ofCode (bits w 5 2)) (bits w 8 4) (bits w 0 4)
  | .add => .addRegShift c (bit w 20) (bits w 12 4) (bits w 16 4) (ShiftKind.ofCode (bits w 5 2)) (bits w 8 4) (bits w 0 4)
  | .adc => .adcRegShift c (bit w 20) (bits w 12 4) (bits w 16 4) (ShiftKind.ofCode (bits w 5 2)) (bits w 8 4) (bits w 0 4)
  | .sbc => .sbcRegShift c (bit w 20) (bits w 12 4) (bits w 16 4) (ShiftKind.ofCode (bits w 5 2)) (bits w 8 4) (bits w 0 4)
  | .rsc => .rscRegShift c (bit w 20) (bits w 12 4) (bits w 16 4) (ShiftKind.ofCode (bits w 5 2)) (bits w 8 4) (bits w 0 4)
  | .tst => .tstRegShift c (bits w 16 4) (ShiftKind.ofCode (bits w 5 2)) (bits w 8 4) (bits w 0 4)
  | .teq => .teqRegShift c (bits w 16 4) (ShiftKind.ofCode (bits w 5 2)) (bits w 8 4) (bits w 0 4)
  | .cmp => .cmpRegShift c (bits w 16 4) (ShiftKind.ofCode (bits w 5 2)) (bits w 8 4) (bits w 0 4)
  | .cmn => .cmnRegShift c (bits w 16 4) (ShiftKind.ofCode (bits w 5 2)) (bits w 8 4) (bits w 0 4)
  | .orr => .orrRegShift c (bit w 20) (bits w 12 4) (bits w 16 4) (ShiftKind.ofCode (bits w 5 2)) (bits w 8 4) (bits w 0 4)
  | .mov => .movRegShift c (bit w 20) (bits w 12 4) (ShiftKind.ofCode (bits w 5 2)) (bits w 8 4) (bits w 0 4)
  | .bic => .bicRegShift c (bit w 20) (bits w 12 4) (bits w 16 4) (ShiftKind.ofCode (bits w 5 2)) (bits w 8 4) (bits w 0 4)
  | .mvn => .mvnRegShift c (bit w 20) (bits w 12 4) (ShiftKind.ofCode (bits w 5 2)) (bits w 8 4) (bits w 0 4)

/-- The multiply/swap space, w[7:4] = 1001 in class 000 (R122, R134, R135). -/
def decodeMulSwap (c : Cond) (w : Word) : Instr :=
  if bits w 24 4 = 0b0000#4 ∧ bits w 21 3 = 0b000#3 then
    .mul c (bit w 20) (bits w 16 4) (bits w 8 4) (bits w 0 4)
  else if bits w 24 4 = 0b0000#4 ∧ bits w 21 3 = 0b001#3 then
    .mla c (bit w 20) (bits w 16 4) (bits w 12 4) (bits w 8 4) (bits w 0 4)
  else if bits w 24 4 = 0b0000#4 ∧ bits w 21 3 = 0b100#3 then
    .umull c (bit w 20) (bits w 16 4) (bits w 12 4) (bits w 8 4) (bits w 0 4)
  else if bits w 24 4 = 0b0000#4 ∧ bits w 21 3 = 0b101#3 then
    .umlal c (bit w 20) (bits w 16 4) (bits w 12 4) (bits w 8 4) (bits w 0 4)
  else if bits w 24 4 = 0b0000#4 ∧ bits w 21 3 = 0b110#3 then
    .smull c (bit w 20) (bits w 16 4) (bits w 12 4) (bits w 8 4) (bits w 0 4)
  else if bits w 24 4 = 0b0000#4 ∧ bits w 21 3 = 0b111#3 then
    .smlal c (bit w 20) (bits w 16 4) (bits w 12 4) (bits w 8 4) (bits w 0 4)
  else if bits w 24 4 = 0b0001#4 ∧ bits w 20 4 = 0b0000#4 then
    .swp c (bits w 16 4) (bits w 12 4) (bits w 0 4)
  else if bits w 24 4 = 0b0001#4 ∧ bits w 20 4 = 0b0100#4 then
    .swpb c (bits w 16 4) (bits w 12 4) (bits w 0 4)
  else .undefMulswp c (bits w 20 5) (bits w 8 12) (bits w 0 4)

/-- Addressing mode 3, by (L, SH) and the I bit w[22] (R122, R129). The immediate is w[11:8] : w[3:0] (R137). -/
def decodeExtra (c : Cond) (w : Word) : Instr :=
  let idx := Index.ofPW (bit w 24) (bit w 21)
  let off : BitVec 8 := bits w 8 4 ++ bits w 0 4
  if bits w 5 2 = 0b01#2 then
    if bit w 20 then
      if bit w 22 then .ldrhImm c idx (bit w 23) (bits w 16 4) (bits w 12 4) off
      else .ldrhReg c idx (bit w 23) (bits w 16 4) (bits w 12 4) (bits w 0 4)
    else
      if bit w 22 then .strhImm c idx (bit w 23) (bits w 16 4) (bits w 12 4) off
      else .strhReg c idx (bit w 23) (bits w 16 4) (bits w 12 4) (bits w 0 4)
  else if bits w 5 2 = 0b10#2 then
    if bit w 20 then
      if bit w 22 then .ldrsbImm c idx (bit w 23) (bits w 16 4) (bits w 12 4) off
      else .ldrsbReg c idx (bit w 23) (bits w 16 4) (bits w 12 4) (bits w 0 4)
    else
      if bit w 22 then .ldrdImm c idx (bit w 23) (bits w 16 4) (bits w 12 4) off
      else .ldrdReg c idx (bit w 23) (bits w 16 4) (bits w 12 4) (bits w 0 4)
  else
    if bit w 20 then
      if bit w 22 then .ldrshImm c idx (bit w 23) (bits w 16 4) (bits w 12 4) off
      else .ldrshReg c idx (bit w 23) (bits w 16 4) (bits w 12 4) (bits w 0 4)
    else
      if bit w 22 then .strdImm c idx (bit w 23) (bits w 16 4) (bits w 12 4) off
      else .strdReg c idx (bit w 23) (bits w 16 4) (bits w 12 4) (bits w 0 4)

/-- The miscellaneous space, w[24:23] = 10 and w[20] = 0 in class 000 (R122, R126, R127, R136). -/
def decodeMisc (c : Cond) (w : Word) : Instr :=
  if bits w 4 4 = 0b0000#4 then
    if bit w 21 then
      if bit w 22 then .msrSpsrReg c (bits w 16 4) (bits w 0 4)
      else .msrCpsrReg c (bits w 16 4) (bits w 0 4)
    else
      if bit w 22 then .mrsSpsr c (bits w 12 4)
      else .mrsCpsr c (bits w 12 4)
  else if bits w 21 2 = 0b01#2 ∧ bits w 4 4 = 0b0001#4 then .bx c (bits w 0 4)
  else if bits w 21 2 = 0b01#2 ∧ bits w 4 4 = 0b0011#4 then .blxReg c (bits w 0 4)
  else if bits w 21 2 = 0b11#2 ∧ bits w 4 4 = 0b0001#4 then .clz c (bits w 12 4) (bits w 0 4)
  else if bits w 21 2 = 0b01#2 ∧ bits w 4 4 = 0b0111#4 then .bkpt c (bits w 8 12 ++ bits w 0 4)
  else .undefMisc c (bits w 21 2) (bits w 0 20)

/-- Class 000 (R122). -/
def decodeClass0 (c : Cond) (w : Word) : Instr :=
  if bit w 7 ∧ bit w 4 then
    if bits w 5 2 = 0b00#2 then decodeMulSwap c w else decodeExtra c w
  else if bits w 23 2 = 0b10#2 ∧ ¬ bit w 20 then decodeMisc c w
  else if bit w 4 then decodeDpRegShift c w
  else decodeDpImmShift c w

/-- Class 001 (R122). -/
def decodeClass1 (c : Cond) (w : Word) : Instr :=
  if bits w 23 2 = 0b10#2 ∧ ¬ bit w 20 then
    if bit w 21 then
      if bit w 22 then .msrSpsrImm c (bits w 16 4) (bits w 8 4) (bits w 0 8)
      else .msrCpsrImm c (bits w 16 4) (bits w 8 4) (bits w 0 8)
    else .undefClass1Move c (bit w 22) (bits w 0 20)
  else decodeDpImm c w

/-- Class 010: word and byte transfers with an immediate offset (R128); (P, W) = (0, 1) is the T form (R251). -/
def decodeClass2 (c : Cond) (w : Word) : Instr :=
  let idx := Index.ofPW (bit w 24) (bit w 21)
  if idx = .postW then
    if bit w 20 then
      if bit w 22 then .ldrbtImm c (bit w 23) (bits w 16 4) (bits w 12 4) (bits w 0 12)
      else .ldrtImm c (bit w 23) (bits w 16 4) (bits w 12 4) (bits w 0 12)
    else
      if bit w 22 then .strbtImm c (bit w 23) (bits w 16 4) (bits w 12 4) (bits w 0 12)
      else .strtImm c (bit w 23) (bits w 16 4) (bits w 12 4) (bits w 0 12)
  else
    if bit w 20 then
      if bit w 22 then .ldrbImm c idx (bit w 23) (bits w 16 4) (bits w 12 4) (bits w 0 12)
      else .ldrImm c idx (bit w 23) (bits w 16 4) (bits w 12 4) (bits w 0 12)
    else
      if bit w 22 then .strbImm c idx (bit w 23) (bits w 16 4) (bits w 12 4) (bits w 0 12)
      else .strImm c idx (bit w 23) (bits w 16 4) (bits w 12 4) (bits w 0 12)

/-- Class 011: word and byte transfers with a register offset, or undefined with w[4] = 1 (R122, R128). -/
def decodeClass3 (c : Cond) (w : Word) : Instr :=
  let idx := Index.ofPW (bit w 24) (bit w 21)
  let k := ShiftKind.ofCode (bits w 5 2)
  if bit w 4 then .undefClass3 c (bits w 5 20) (bits w 0 4)
  else if idx = .postW then
    if bit w 20 then
      if bit w 22 then .ldrbtReg c (bit w 23) (bits w 16 4) (bits w 12 4) k (bits w 7 5) (bits w 0 4)
      else .ldrtReg c (bit w 23) (bits w 16 4) (bits w 12 4) k (bits w 7 5) (bits w 0 4)
    else
      if bit w 22 then .strbtReg c (bit w 23) (bits w 16 4) (bits w 12 4) k (bits w 7 5) (bits w 0 4)
      else .strtReg c (bit w 23) (bits w 16 4) (bits w 12 4) k (bits w 7 5) (bits w 0 4)
  else
    if bit w 20 then
      if bit w 22 then .ldrbReg c idx (bit w 23) (bits w 16 4) (bits w 12 4) k (bits w 7 5) (bits w 0 4)
      else .ldrReg c idx (bit w 23) (bits w 16 4) (bits w 12 4) k (bits w 7 5) (bits w 0 4)
    else
      if bit w 22 then .strbReg c idx (bit w 23) (bits w 16 4) (bits w 12 4) k (bits w 7 5) (bits w 0 4)
      else .strReg c idx (bit w 23) (bits w 16 4) (bits w 12 4) k (bits w 7 5) (bits w 0 4)

/-- Class 100: LDM and STM, the forms told apart by S, L and register_list[15] (R130, R312). -/
def decodeClass4 (c : Cond) (w : Word) : Instr :=
  let md := BlockMode.ofPU (bit w 24) (bit w 23)
  if bit w 20 then
    if bit w 22 then
      if bit w 15 then .ldm3 c md (bit w 21) (bits w 16 4) (bits w 0 16)
      else .ldm2 c md (bit w 21) (bits w 16 4) (bits w 0 16)
    else .ldm1 c md (bit w 21) (bits w 16 4) (bits w 0 16)
  else
    if bit w 22 then .stm2 c md (bit w 21) (bits w 16 4) (bits w 0 16)
    else .stm1 c md (bit w 21) (bits w 16 4) (bits w 0 16)

/-- Class 101: B and BL (R131). -/
def decodeClass5 (c : Cond) (w : Word) : Instr :=
  if bit w 24 then .bl c (bits w 0 24) else .b c (bits w 0 24)

/-- Class 110: coprocessor load/store (R133). -/
def decodeClass6 (c : Cond) (w : Word) : Instr :=
  if bit w 20 then
    .ldc c (bit w 24) (bit w 23) (bit w 22) (bit w 21) (bits w 16 4) (bits w 12 4) (bits w 8 4) (bits w 0 8)
  else
    .stc c (bit w 24) (bit w 23) (bit w 22) (bit w 21) (bits w 16 4) (bits w 12 4) (bits w 8 4) (bits w 0 8)

/-- Class 111: SWI, CDP, MRC and MCR (R132, R133). -/
def decodeClass7 (c : Cond) (w : Word) : Instr :=
  if bit w 24 then
    if bits w 0 24 = haltComment then .swiHalt c else .swi c (bits w 0 24)
  else if bit w 4 then
    if bit w 20 then
      .mrc c (bits w 21 3) (bits w 16 4) (bits w 12 4) (bits w 8 4) (bits w 5 3) (bits w 0 4)
    else
      .mcr c (bits w 21 3) (bits w 16 4) (bits w 12 4) (bits w 8 4) (bits w 5 3) (bits w 0 4)
  else
    .cdp c (bits w 20 4) (bits w 16 4) (bits w 12 4) (bits w 8 4) (bits w 5 3) (bits w 0 4)

/-- The eight classes of w[27:25] (R121, R122). -/
def decodeClass (c : Cond) (w : Word) : Instr :=
  if bits w 25 3 = 0b000#3 then decodeClass0 c w
  else if bits w 25 3 = 0b001#3 then decodeClass1 c w
  else if bits w 25 3 = 0b010#3 then decodeClass2 c w
  else if bits w 25 3 = 0b011#3 then decodeClass3 c w
  else if bits w 25 3 = 0b100#3 then decodeClass4 c w
  else if bits w 25 3 = 0b101#3 then decodeClass5 c w
  else if bits w 25 3 = 0b110#3 then decodeClass6 c w
  else decodeClass7 c w

/-- The decoder on one word: total (R122). A word with cond = 0b1111 is one of the two rows of that space (R138 item 1,
R393). -/
def decodeWord (w : Word) : Instr :=
  match Cond.ofCode (bits w 28 4) with
  | some c => decodeClass c w
  | none =>
    if bits w 25 3 = 0b101#3 then .blxImm (bit w 24) (bits w 0 24)
    else .undefCond1111 (bits w 0 28)

/-- Why bytes are rejected. -/
inductive DecodeError
  /-- Fewer than the four bytes of an instruction (R120). -/
  | truncated
deriving DecidableEq, Repr

/-- Decode the instruction at the head of bytes in memory order, and give the rest (R94, R120). -/
def decode (bigEndian : Bool) : List Byte → Except DecodeError (Instr × List Byte)
  | b0 :: b1 :: b2 :: b3 :: rest => .ok (decodeWord (assemble bigEndian [b0, b1, b2, b3]), rest)
  | _ => .error .truncated

/-- The instruction the decoder reads from a table word: the word's bytes laid out as a little-endian memory stores
them and given to `decode`. An instruction is one 32-bit word (R120). -/
def decodeTableWord (nbits w : Nat) : Option Instr :=
  if nbits ≤ 32 ∧ w < 2 ^ nbits then
    match decode false (disassemble false 4 (BitVec.ofNat 32 w)) with
    | .ok (i, _) => some i
    | .error _ => none
  else none

/-! ## The encoder, one function per format (R123–R136) -/

/-- The bit as a one-bit field. -/
def flag (b : Bool) : BitVec 1 := BitVec.ofBool b

/-- Data processing, immediate (R123, R125 (a)). -/
def encDpImm (c : Cond) (op : DpOp) (s : Bool) (rn rd rot : BitVec 4) (imm : BitVec 8) : Word :=
  place c.code 28 ||| place 0b001#3 25 ||| place op.code 21 ||| place (flag s) 20 ||| place rn 16 |||
    place rd 12 ||| place rot 8 ||| place imm 0

/-- Data processing, immediate shift (R123, R125 (b)). -/
def encDpImmShift (c : Cond) (op : DpOp) (s : Bool) (rn rd : BitVec 4) (k : ShiftKind) (amt : BitVec 5)
    (rm : BitVec 4) : Word :=
  place c.code 28 ||| place 0b000#3 25 ||| place op.code 21 ||| place (flag s) 20 ||| place rn 16 |||
    place rd 12 ||| place amt 7 ||| place k.code 5 ||| place 0b0#1 4 ||| place rm 0

/-- Data processing, register shift (R123, R125 (c)). -/
def encDpRegShift (c : Cond) (op : DpOp) (s : Bool) (rn rd : BitVec 4) (k : ShiftKind) (rs rm : BitVec 4) : Word :=
  place c.code 28 ||| place 0b000#3 25 ||| place op.code 21 ||| place (flag s) 20 ||| place rn 16 |||
    place rd 12 ||| place rs 8 ||| place 0b0#1 7 ||| place k.code 5 ||| place 0b1#1 4 ||| place rm 0

/-- MUL and MLA (R134); Rn of MUL is SBZ. -/
def encMul (c : Cond) (acc s : Bool) (rd rn rs rm : BitVec 4) : Word :=
  place c.code 28 ||| place 0b000000#6 22 ||| place (flag acc) 21 ||| place (flag s) 20 ||| place rd 16 |||
    place rn 12 ||| place rs 8 ||| place 0b1001#4 4 ||| place rm 0

/-- The long multiplies (R134). -/
def encMulLong (c : Cond) (signed acc s : Bool) (rdHi rdLo rs rm : BitVec 4) : Word :=
  place c.code 28 ||| place 0b00001#5 23 ||| place (flag signed) 22 ||| place (flag acc) 21 |||
    place (flag s) 20 ||| place rdHi 16 ||| place rdLo 12 ||| place rs 8 ||| place 0b1001#4 4 ||| place rm 0

/-- SWP and SWPB (R135); w[11:8] is SBZ. -/
def encSwp (c : Cond) (b : Bool) (rn rd rm : BitVec 4) : Word :=
  place c.code 28 ||| place 0b00010#5 23 ||| place (flag b) 22 ||| place 0b00#2 20 ||| place rn 16 |||
    place rd 12 ||| place 0b0000#4 8 ||| place 0b1001#4 4 ||| place rm 0

/-- Addressing mode 3, immediate offset (R129). -/
def encExtraImm (c : Cond) (l : Bool) (sh : BitVec 2) (idx : Index) (u : Bool) (rn rd : BitVec 4) (off : BitVec 8) :
    Word :=
  place c.code 28 ||| place 0b000#3 25 ||| place (flag idx.p) 24 ||| place (flag u) 23 ||| place 0b1#1 22 |||
    place (flag idx.w) 21 ||| place (flag l) 20 ||| place rn 16 ||| place rd 12 |||
    place (off.extractLsb' 4 4) 8 ||| place 0b1#1 7 ||| place sh 5 ||| place 0b1#1 4 |||
    place (off.extractLsb' 0 4) 0

/-- Addressing mode 3, register offset (R129); w[11:8] is SBZ. -/
def encExtraReg (c : Cond) (l : Bool) (sh : BitVec 2) (idx : Index) (u : Bool) (rn rd rm : BitVec 4) : Word :=
  place c.code 28 ||| place 0b000#3 25 ||| place (flag idx.p) 24 ||| place (flag u) 23 ||| place 0b0#1 22 |||
    place (flag idx.w) 21 ||| place (flag l) 20 ||| place rn 16 ||| place rd 12 ||| place 0b0000#4 8 |||
    place 0b1#1 7 ||| place sh 5 ||| place 0b1#1 4 ||| place rm 0

/-- MRS (R126): w[19:16] SBO, w[11:0] SBZ. -/
def encMrs (c : Cond) (r : Bool) (rd : BitVec 4) : Word :=
  place c.code 28 ||| place 0b00010#5 23 ||| place (flag r) 22 ||| place 0b00#2 20 ||| place 0b1111#4 16 |||
    place rd 12 ||| place 0x000#12 0

/-- MSR, register form (R127): w[15:12] SBO, w[11:8] SBZ. -/
def encMsrReg (c : Cond) (r : Bool) (mask rm : BitVec 4) : Word :=
  place c.code 28 ||| place 0b00010#5 23 ||| place (flag r) 22 ||| place 0b10#2 20 ||| place mask 16 |||
    place 0b1111#4 12 ||| place 0b0000#4 8 ||| place 0b0000#4 4 ||| place rm 0

/-- MSR, immediate form (R127): w[15:12] SBO. -/
def encMsrImm (c : Cond) (r : Bool) (mask rot : BitVec 4) (imm : BitVec 8) : Word :=
  place c.code 28 ||| place 0b00110#5 23 ||| place (flag r) 22 ||| place 0b10#2 20 ||| place mask 16 |||
    place 0b1111#4 12 ||| place rot 8 ||| place imm 0

/-- BX and BLX (register), w[7:4] = 0001 and 0011 (R136); w[19:8] SBO. -/
def encBx (c : Cond) (b : BitVec 4) (rm : BitVec 4) : Word :=
  place c.code 28 ||| place 0b00010010#8 20 ||| place 0xFFF#12 8 ||| place b 4 ||| place rm 0

/-- CLZ (R136): w[19:16] and w[11:8] SBO. -/
def encClz (c : Cond) (rd rm : BitVec 4) : Word :=
  place c.code 28 ||| place 0b00010110#8 20 ||| place 0xF#4 16 ||| place rd 12 ||| place 0xF#4 8 |||
    place 0b0001#4 4 ||| place rm 0

/-- BKPT (R136). -/
def encBkpt (c : Cond) (imm : BitVec 16) : Word :=
  place c.code 28 ||| place 0b00010010#8 20 ||| place (imm.extractLsb' 4 12) 8 ||| place 0b0111#4 4 |||
    place (imm.extractLsb' 0 4) 0

/-- Addressing mode 2, immediate offset (R128). -/
def encLsImm (c : Cond) (b l : Bool) (idx : Index) (u : Bool) (rn rd : BitVec 4) (off : BitVec 12) : Word :=
  place c.code 28 ||| place 0b010#3 25 ||| place (flag idx.p) 24 ||| place (flag u) 23 ||| place (flag b) 22 |||
    place (flag idx.w) 21 ||| place (flag l) 20 ||| place rn 16 ||| place rd 12 ||| place off 0

/-- Addressing mode 2, register offset (R128). -/
def encLsReg (c : Cond) (b l : Bool) (idx : Index) (u : Bool) (rn rd : BitVec 4) (k : ShiftKind) (amt : BitVec 5)
    (rm : BitVec 4) : Word :=
  place c.code 28 ||| place 0b011#3 25 ||| place (flag idx.p) 24 ||| place (flag u) 23 ||| place (flag b) 22 |||
    place (flag idx.w) 21 ||| place (flag l) 20 ||| place rn 16 ||| place rd 12 ||| place amt 7 |||
    place k.code 5 ||| place 0b0#1 4 ||| place rm 0

/-- Addressing mode 4 (R130). -/
def encBlock (c : Cond) (s l : Bool) (md : BlockMode) (w : Bool) (rn : BitVec 4) (list : BitVec 16) : Word :=
  place c.code 28 ||| place 0b100#3 25 ||| place (flag md.p) 24 ||| place (flag md.u) 23 ||| place (flag s) 22 |||
    place (flag w) 21 ||| place (flag l) 20 ||| place rn 16 ||| place list 0

/-- B and BL (R131). -/
def encBranch (c : Cond) (l : Bool) (imm : BitVec 24) : Word :=
  place c.code 28 ||| place 0b101#3 25 ||| place (flag l) 24 ||| place imm 0

/-- LDC and STC (R133). -/
def encCpLs (c : Cond) (p u n w l : Bool) (rn crd cp : BitVec 4) (off : BitVec 8) : Word :=
  place c.code 28 ||| place 0b110#3 25 ||| place (flag p) 24 ||| place (flag u) 23 ||| place (flag n) 22 |||
    place (flag w) 21 ||| place (flag l) 20 ||| place rn 16 ||| place crd 12 ||| place cp 8 ||| place off 0

/-- CDP (R133). -/
def encCdp (c : Cond) (op1 crn crd cp : BitVec 4) (op2 : BitVec 3) (crm : BitVec 4) : Word :=
  place c.code 28 ||| place 0b1110#4 24 ||| place op1 20 ||| place crn 16 ||| place crd 12 ||| place cp 8 |||
    place op2 5 ||| place 0b0#1 4 ||| place crm 0

/-- MRC and MCR (R133). -/
def encCpRt (c : Cond) (l : Bool) (op1 : BitVec 3) (crn rd cp : BitVec 4) (op2 : BitVec 3) (crm : BitVec 4) : Word :=
  place c.code 28 ||| place 0b1110#4 24 ||| place op1 21 ||| place (flag l) 20 ||| place crn 16 |||
    place rd 12 ||| place cp 8 ||| place op2 5 ||| place 0b1#1 4 ||| place crm 0

/-- SWI (R132). -/
def encSwi (c : Cond) (imm : BitVec 24) : Word :=
  place c.code 28 ||| place 0b1111#4 24 ||| place imm 0

/-- The word of a well-formed instruction. SBZ fields are 0 and SBO fields are 1 (R139). -/
def encode : Instr → Word
  | .blxImm h imm => place 0b1111101#7 25 ||| place (flag h) 24 ||| place imm 0
  | .undefCond1111 rest => place 0b1111#4 28 ||| place rest 0
  | .mul c s rd rs rm => encMul c false s rd 0#4 rs rm
  | .mla c s rd rn rs rm => encMul c true s rd rn rs rm
  | .umull c s rdHi rdLo rs rm => encMulLong c false false s rdHi rdLo rs rm
  | .umlal c s rdHi rdLo rs rm => encMulLong c false true s rdHi rdLo rs rm
  | .smull c s rdHi rdLo rs rm => encMulLong c true false s rdHi rdLo rs rm
  | .smlal c s rdHi rdLo rs rm => encMulLong c true true s rdHi rdLo rs rm
  | .swp c rn rd rm => encSwp c false rn rd rm
  | .swpb c rn rd rm => encSwp c true rn rd rm
  | .undefMulswp c op mid low =>
    place c.code 28 ||| place 0b000#3 25 ||| place op 20 ||| place mid 8 ||| place 0b1001#4 4 ||| place low 0
  | .ldrhImm c idx u rn rd off => encExtraImm c true 0b01#2 idx u rn rd off
  | .ldrhReg c idx u rn rd rm => encExtraReg c true 0b01#2 idx u rn rd rm
  | .strhImm c idx u rn rd off => encExtraImm c false 0b01#2 idx u rn rd off
  | .strhReg c idx u rn rd rm => encExtraReg c false 0b01#2 idx u rn rd rm
  | .ldrsbImm c idx u rn rd off => encExtraImm c true 0b10#2 idx u rn rd off
  | .ldrsbReg c idx u rn rd rm => encExtraReg c true 0b10#2 idx u rn rd rm
  | .ldrshImm c idx u rn rd off => encExtraImm c true 0b11#2 idx u rn rd off
  | .ldrshReg c idx u rn rd rm => encExtraReg c true 0b11#2 idx u rn rd rm
  | .ldrdImm c idx u rn rd off => encExtraImm c false 0b10#2 idx u rn rd off
  | .ldrdReg c idx u rn rd rm => encExtraReg c false 0b10#2 idx u rn rd rm
  | .strdImm c idx u rn rd off => encExtraImm c false 0b11#2 idx u rn rd off
  | .strdReg c idx u rn rd rm => encExtraReg c false 0b11#2 idx u rn rd rm
  | .mrsCpsr c rd => encMrs c false rd
  | .mrsSpsr c rd => encMrs c true rd
  | .msrCpsrReg c mask rm => encMsrReg c false mask rm
  | .msrSpsrReg c mask rm => encMsrReg c true mask rm
  | .bx c rm => encBx c 0b0001#4 rm
  | .blxReg c rm => encBx c 0b0011#4 rm
  | .clz c rd rm => encClz c rd rm
  | .bkpt c imm => encBkpt c imm
  | .undefMisc c op rest => place c.code 28 ||| place 0b00010#5 23 ||| place op 21 ||| place 0b0#1 20 ||| place rest 0
  | .andImmShift c s rd rn k amt rm => encDpImmShift c .and s rn rd k amt rm
  | .andRegShift c s rd rn k rs rm => encDpRegShift c .and s rn rd k rs rm
  | .eorImmShift c s rd rn k amt rm => encDpImmShift c .eor s rn rd k amt rm
  | .eorRegShift c s rd rn k rs rm => encDpRegShift c .eor s rn rd k rs rm
  | .subImmShift c s rd rn k amt rm => encDpImmShift c .sub s rn rd k amt rm
  | .subRegShift c s rd rn k rs rm => encDpRegShift c .sub s rn rd k rs rm
  | .rsbImmShift c s rd rn k amt rm => encDpImmShift c .rsb s rn rd k amt rm
  | .rsbRegShift c s rd rn k rs rm => encDpRegShift c .rsb s rn rd k rs rm
  | .addImmShift c s rd rn k amt rm => encDpImmShift c .add s rn rd k amt rm
  | .addRegShift c s rd rn k rs rm => encDpRegShift c .add s rn rd k rs rm
  | .adcImmShift c s rd rn k amt rm => encDpImmShift c .adc s rn rd k amt rm
  | .adcRegShift c s rd rn k rs rm => encDpRegShift c .adc s rn rd k rs rm
  | .sbcImmShift c s rd rn k amt rm => encDpImmShift c .sbc s rn rd k amt rm
  | .sbcRegShift c s rd rn k rs rm => encDpRegShift c .sbc s rn rd k rs rm
  | .rscImmShift c s rd rn k amt rm => encDpImmShift c .rsc s rn rd k amt rm
  | .rscRegShift c s rd rn k rs rm => encDpRegShift c .rsc s rn rd k rs rm
  | .tstImmShift c rn k amt rm => encDpImmShift c .tst true rn 0#4 k amt rm
  | .tstRegShift c rn k rs rm => encDpRegShift c .tst true rn 0#4 k rs rm
  | .teqImmShift c rn k amt rm => encDpImmShift c .teq true rn 0#4 k amt rm
  | .teqRegShift c rn k rs rm => encDpRegShift c .teq true rn 0#4 k rs rm
  | .cmpImmShift c rn k amt rm => encDpImmShift c .cmp true rn 0#4 k amt rm
  | .cmpRegShift c rn k rs rm => encDpRegShift c .cmp true rn 0#4 k rs rm
  | .cmnImmShift c rn k amt rm => encDpImmShift c .cmn true rn 0#4 k amt rm
  | .cmnRegShift c rn k rs rm => encDpRegShift c .cmn true rn 0#4 k rs rm
  | .orrImmShift c s rd rn k amt rm => encDpImmShift c .orr s rn rd k amt rm
  | .orrRegShift c s rd rn k rs rm => encDpRegShift c .orr s rn rd k rs rm
  | .movImmShift c s rd k amt rm => encDpImmShift c .mov s 0#4 rd k amt rm
  | .movRegShift c s rd k rs rm => encDpRegShift c .mov s 0#4 rd k rs rm
  | .bicImmShift c s rd rn k amt rm => encDpImmShift c .bic s rn rd k amt rm
  | .bicRegShift c s rd rn k rs rm => encDpRegShift c .bic s rn rd k rs rm
  | .mvnImmShift c s rd k amt rm => encDpImmShift c .mvn s 0#4 rd k amt rm
  | .mvnRegShift c s rd k rs rm => encDpRegShift c .mvn s 0#4 rd k rs rm
  | .msrCpsrImm c mask rot imm => encMsrImm c false mask rot imm
  | .msrSpsrImm c mask rot imm => encMsrImm c true mask rot imm
  | .undefClass1Move c b22 rest =>
    place c.code 28 ||| place 0b00110#5 23 ||| place (flag b22) 22 ||| place 0b00#2 20 ||| place rest 0
  | .andImm c s rd rn rot imm => encDpImm c .and s rn rd rot imm
  | .eorImm c s rd rn rot imm => encDpImm c .eor s rn rd rot imm
  | .subImm c s rd rn rot imm => encDpImm c .sub s rn rd rot imm
  | .rsbImm c s rd rn rot imm => encDpImm c .rsb s rn rd rot imm
  | .addImm c s rd rn rot imm => encDpImm c .add s rn rd rot imm
  | .adcImm c s rd rn rot imm => encDpImm c .adc s rn rd rot imm
  | .sbcImm c s rd rn rot imm => encDpImm c .sbc s rn rd rot imm
  | .rscImm c s rd rn rot imm => encDpImm c .rsc s rn rd rot imm
  | .tstImm c rn rot imm => encDpImm c .tst true rn 0#4 rot imm
  | .teqImm c rn rot imm => encDpImm c .teq true rn 0#4 rot imm
  | .cmpImm c rn rot imm => encDpImm c .cmp true rn 0#4 rot imm
  | .cmnImm c rn rot imm => encDpImm c .cmn true rn 0#4 rot imm
  | .orrImm c s rd rn rot imm => encDpImm c .orr s rn rd rot imm
  | .movImm c s rd rot imm => encDpImm c .mov s 0#4 rd rot imm
  | .bicImm c s rd rn rot imm => encDpImm c .bic s rn rd rot imm
  | .mvnImm c s rd rot imm => encDpImm c .mvn s 0#4 rd rot imm
  | .undefClass3 c hi low => place c.code 28 ||| place 0b011#3 25 ||| place hi 5 ||| place 0b1#1 4 ||| place low 0
  | .ldrtImm c u rn rd off => encLsImm c false true .postW u rn rd off
  | .ldrbtImm c u rn rd off => encLsImm c true true .postW u rn rd off
  | .strtImm c u rn rd off => encLsImm c false false .postW u rn rd off
  | .strbtImm c u rn rd off => encLsImm c true false .postW u rn rd off
  | .ldrImm c idx u rn rd off => encLsImm c false true idx u rn rd off
  | .ldrbImm c idx u rn rd off => encLsImm c true true idx u rn rd off
  | .strImm c idx u rn rd off => encLsImm c false false idx u rn rd off
  | .strbImm c idx u rn rd off => encLsImm c true false idx u rn rd off
  | .ldrtReg c u rn rd k amt rm => encLsReg c false true .postW u rn rd k amt rm
  | .ldrbtReg c u rn rd k amt rm => encLsReg c true true .postW u rn rd k amt rm
  | .strtReg c u rn rd k amt rm => encLsReg c false false .postW u rn rd k amt rm
  | .strbtReg c u rn rd k amt rm => encLsReg c true false .postW u rn rd k amt rm
  | .ldrReg c idx u rn rd k amt rm => encLsReg c false true idx u rn rd k amt rm
  | .ldrbReg c idx u rn rd k amt rm => encLsReg c true true idx u rn rd k amt rm
  | .strReg c idx u rn rd k amt rm => encLsReg c false false idx u rn rd k amt rm
  | .strbReg c idx u rn rd k amt rm => encLsReg c true false idx u rn rd k amt rm
  | .ldm1 c md w rn list => encBlock c false true md w rn list
  | .ldm2 c md w rn list => encBlock c true true md w rn list
  | .ldm3 c md w rn list => encBlock c true true md w rn list
  | .stm1 c md w rn list => encBlock c false false md w rn list
  | .stm2 c md w rn list => encBlock c true false md w rn list
  | .b c imm => encBranch c false imm
  | .bl c imm => encBranch c true imm
  | .ldc c p u n w rn crd cp off => encCpLs c p u n w true rn crd cp off
  | .stc c p u n w rn crd cp off => encCpLs c p u n w false rn crd cp off
  | .swiHalt c => encSwi c haltComment
  | .swi c imm => encSwi c imm
  | .cdp c op1 crn crd cp op2 crm => encCdp c op1 crn crd cp op2 crm
  | .mrc c op1 crn rd cp op2 crm => encCpRt c true op1 crn rd cp op2 crm
  | .mcr c op1 crn rd cp op2 crm => encCpRt c false op1 crn rd cp op2 crm

end Sys2Proof
end

