-- ==== Sys2Proof/Machine/State.lean ====
section
/-! DEFINITION. The machine's state as plain data (spec 10_state R40–R60, 20_memory R90–R94), why a step may stop, and
the state after reset (R58, R470, R471). -/

namespace Sys2Proof.Machine

/-- The seven processor modes (R47). -/
inductive Mode
  | usr | fiq | irq | svc | abt | und | sys
deriving DecidableEq, Repr

/-- The seven exception causes (R420). -/
inductive Cause
  | reset | undefinedInstruction | softwareInterrupt | prefetchAbort | dataAbort | interrupt | fastInterrupt
deriving DecidableEq, Repr

/-- The value a call of `step()` returns when it is not a refusal: cause code 0, a cause code 1 … 7, or Halt
(R178, R182). -/
inductive Result
  | normal
  | exception (e : Cause)
  | halt
deriving DecidableEq, Repr

/-- The names of the 31 physical general-register cells (R40). R15 is the program counter (R60). -/
inductive RegCell
  | r0 | r1 | r2 | r3 | r4 | r5 | r6 | r7
  | r8Usr | r9Usr | r10Usr | r11Usr | r12Usr
  | r8Fiq | r9Fiq | r10Fiq | r11Fiq | r12Fiq
  | r13Usr | r14Usr
  | r13Fiq | r14Fiq
  | r13Irq | r14Irq
  | r13Svc | r14Svc
  | r13Abt | r14Abt
  | r13Und | r14Und
  | r15
deriving DecidableEq, Repr

/-- The register bank: exactly one 32-bit cell for each name (R40). -/
structure RegBank where
  r0 : Word
  r1 : Word
  r2 : Word
  r3 : Word
  r4 : Word
  r5 : Word
  r6 : Word
  r7 : Word
  r8Usr : Word
  r9Usr : Word
  r10Usr : Word
  r11Usr : Word
  r12Usr : Word
  r8Fiq : Word
  r9Fiq : Word
  r10Fiq : Word
  r11Fiq : Word
  r12Fiq : Word
  r13Usr : Word
  r14Usr : Word
  r13Fiq : Word
  r14Fiq : Word
  r13Irq : Word
  r14Irq : Word
  r13Svc : Word
  r14Svc : Word
  r13Abt : Word
  r14Abt : Word
  r13Und : Word
  r14Und : Word
  r15 : Word
deriving DecidableEq, Repr

/-- The five saved program status registers (R50). USR and SYS have none. -/
structure SpsrBank where
  fiq : Psr
  irq : Psr
  svc : Psr
  abt : Psr
  und : Psr
deriving DecidableEq, Repr

/-- The backing store: the bytes that differ from `unlistedByte`, at strictly rising addresses (R90, R91). The
canonical form is `Memory.wf` in Sys2Proof/Machine/Ops.lean. -/
abbrev Memory := List Host.Cell

/-- The machine's state: the 31 register cells, the CPSR, the five SPSRs and memory, which is all the core holds (R56),
with the OPEN parameters of the run (R7) and, as the model's own field, the value the last call returned. -/
structure State where
  /-- R0 … R15 of every bank (R40). -/
  regs : RegBank
  /-- The current program status register (R46). -/
  cpsr : Psr
  /-- The saved program status registers (R50). -/
  spsrs : SpsrBank
  /-- The contents of the memory backing store (R90). -/
  mem : Memory
  /-- MEM_SIZE, BIG_ENDIAN and UNROUTED_POLICY (R7); no step changes them. -/
  params : Params
  /-- The model's own field, not the core's: what the last `step()` or taken `raise()` returned (R178, R428). No step
  reads it (assumption log 6). -/
  result : Result
deriving DecidableEq, Repr

/-- Faults: there is none. Every fault the spec describes is an architectural exception, whose entry is a next state
(R422); what the spec gives no behaviour is a refusal (R180). -/
inductive Fault
deriving DecidableEq, Repr

/-- The refusals of the spec's table of refusals (93_implementation_defined section 3), and the model's own
`notModelled`. All are safe: the model stops where the spec defines no behaviour (R180). -/
inductive Refusal
  /-- An instruction whose meaning is not written; raised by an arm of `exec` only. Safe. No arm of this model raises
  it. -/
  | notModelled (mnemonic : String)
  /-- `Refused(InvalidMode)`: CPSR.M is none of the seven modes at the start of a step (R171). Raised by `step`. Safe. -/
  | invalidMode
  /-- `Refused(ThumbState)`: CPSR.T = 1 at the start of a step (R171). Raised by `step`. Safe. -/
  | thumbState
  /-- `Refused(MisalignedFetch)`: pc[1:0] ≠ 0 at the start of a step (R171). Raised by `step`. Safe. -/
  | misalignedFetch
  /-- `Refused(Unrouted)`: an instruction of 46_unrouted_v5t whose condition passes, with UNROUTED_POLICY = Refuse
  (R380). Raised by the twelve meanings of Sys2Proof/Machine/Unrouted.lean. Safe. -/
  | unrouted
deriving DecidableEq, Repr

/-- The result of an instruction's meaning and of a step. -/
abbrev Out := Host.Outcome State Fault Refusal

/-- A register bank of zeros. -/
def RegBank.zero : RegBank :=
  { r0 := 0#32, r1 := 0#32, r2 := 0#32, r3 := 0#32, r4 := 0#32, r5 := 0#32, r6 := 0#32, r7 := 0#32,
    r8Usr := 0#32, r9Usr := 0#32, r10Usr := 0#32, r11Usr := 0#32, r12Usr := 0#32,
    r8Fiq := 0#32, r9Fiq := 0#32, r10Fiq := 0#32, r11Fiq := 0#32, r12Fiq := 0#32,
    r13Usr := 0#32, r14Usr := 0#32,
    r13Fiq := 0#32, r14Fiq := 0#32,
    r13Irq := 0#32, r14Irq := 0#32,
    r13Svc := 0#32, r14Svc := 0#32,
    r13Abt := 0#32, r14Abt := 0#32,
    r13Und := 0#32, r14Und := 0#32,
    r15 := 0#32 }

/-- The machine right after Reset, made with the parameters `p`. Reset sets pc = 0, R14_svc = the pc before it, CPSR.M = SVC, T = 0, I = F = 1 and
returns code 1 (R58, R471). Every other value is INITIAL_STATE's, which the spec leaves OPEN: here R470's own example,
all zeros with CPSR = 0x000000D3 (DESIGN CHOICE, assumption log 1). -/
def State.resetWith (p : Params) : State :=
  { regs := RegBank.zero
    cpsr := 0x000000D3#32
    spsrs := { fiq := 0#32, irq := 0#32, svc := 0#32, abt := 0#32, und := 0#32 }
    mem := []
    params := p
    result := .exception .reset }

/-- The machine right after Reset, made with the parameters that assumption log 3 names. -/
def State.reset : State := State.resetWith Params.given

end Sys2Proof.Machine
end

