-- ==== Sys2Proof/Machine/Flags.lean ====
section
/-! DEFINITION. The fields of a program status register (R46, R47), the condition evaluator (R176), the adder and the
flags it computes (R205), and the flag updates of the instructions (R206, R381). -/

namespace Sys2Proof.Machine

/-! ## Fields of a PSR -/

/-- The word with bit `i` replaced by `b`. -/
def setBit (w : Word) (i : Nat) (b : Bool) : Word :=
  (w &&& ~~~(1#32 <<< i)) ||| ((flag b).setWidth 32 <<< i)

/-- N, the negative flag (R46). -/
def negative (p : Psr) : Bool := bit p 31
/-- Z, the zero flag (R46). -/
def zero (p : Psr) : Bool := bit p 30
/-- C, the carry flag (R46). -/
def carry (p : Psr) : Bool := bit p 29
/-- V, the overflow flag (R46). -/
def overflow (p : Psr) : Bool := bit p 28
/-- I, the interrupt-disable bit (R46). -/
def irqDisable (p : Psr) : Bool := bit p 7
/-- F, the fast-interrupt-disable bit (R46). -/
def fiqDisable (p : Psr) : Bool := bit p 6
/-- T, the execution-state bit: 1 = Thumb state (R46). -/
def thumb (p : Psr) : Bool := bit p 5
/-- M, the mode field (R46). -/
def modeField (p : Psr) : BitVec 5 := bits p 0 5
/-- The reserved bits [27:8] (R55). -/
def reservedField (p : Psr) : BitVec 20 := bits p 8 20

def setIrqDisable (p : Psr) (b : Bool) : Psr := setBit p 7 b
def setFiqDisable (p : Psr) (b : Bool) : Psr := setBit p 6 b
def setThumb (p : Psr) (b : Bool) : Psr := setBit p 5 b
def setModeField (p : Psr) (m : BitVec 5) : Psr := (p &&& 0xFFFFFFE0#32) ||| m.setWidth 32

/-- The numeric encoding of a mode (R47). -/
def Mode.code : Mode → BitVec 5
  | .usr => 0b10000 | .fiq => 0b10001 | .irq => 0b10010 | .svc => 0b10011
  | .abt => 0b10111 | .und => 0b11011 | .sys => 0b11111

/-- The mode a value of the mode field names; the 25 other values are illegal (R47, R49). -/
def Mode.ofCode (b : BitVec 5) : Option Mode :=
  match b.toNat with
  | 16 => some .usr | 17 => some .fiq | 18 => some .irq | 19 => some .svc
  | 23 => some .abt | 27 => some .und | 31 => some .sys | _ => none

/-- The mode field of a PSR holds one of the seven legal values (R47). -/
def legalMode (p : Psr) : Bool := (Mode.ofCode (modeField p)).isSome

/-! ## The condition evaluator -/

/-- `passes(cond, N, Z, C, V)`, the table of R176. The row 1111 is the evaluator's "never". -/
def passes (code : BitVec 4) (n z c v : Bool) : Bool :=
  match code.toNat with
  | 0 => z
  | 1 => !z
  | 2 => c
  | 3 => !c
  | 4 => n
  | 5 => !n
  | 6 => v
  | 7 => !v
  | 8 => c && !z
  | 9 => !c || z
  | 10 => n == v
  | 11 => n != v
  | 12 => !z && (n == v)
  | 13 => z || (n != v)
  | 14 => true
  | _ => false

/-- The condition holds of the flags of a PSR (R175, R176). -/
def condHolds (c : Cond) (p : Psr) : Bool :=
  passes c.code (negative p) (zero p) (carry p) (overflow p)

/-! ## Results with flags -/

/-- A data-processing result with its C_out and V_out (R206). -/
structure AluResult where
  value : Word
  carryOut : Bool
  overflowOut : Bool
deriving DecidableEq, Repr

/-- `AddWithCarry(a, b, cin)` (R205): the sums are exact, and C and V say whether they fit. -/
def addWithCarry (a b : Word) (cin : Bool) : AluResult :=
  let usum := a.toNat + b.toNat + cin.toNat
  let ssum := a.toInt + b.toInt + (cin.toNat : Int)
  let result := BitVec.ofNat 32 usum
  { value := result, carryOut := decide (2 ^ 32 ≤ usum), overflowOut := decide (ssum ≠ result.toInt) }

/-- N and Z from a result; every other bit kept (R206, R381). -/
def setNZ (p : Psr) (v : Word) : Psr :=
  setBit (setBit p 31 (bit v 31)) 30 (v == 0#32)

/-- N, Z, C and V from a data-processing result; every other bit kept (R206). -/
def setNZCV (p : Psr) (r : AluResult) : Psr :=
  setBit (setBit (setNZ p r.value) 29 r.carryOut) 28 r.overflowOut

/-- N and Z from a 64-bit product; every other bit kept (R383–R386). -/
def setNZLong (p : Psr) (v : BitVec 64) : Psr :=
  setBit (setBit p 31 (v.getLsbD 63)) 30 (v == 0#64)

end Sys2Proof.Machine
end

