-- ==== Sys2Proof/Machine/Ops.lean ====
section
/-! DEFINITION. The named operations over registers, status registers and memory, fetching, taking an exception and
returning from one. Every meaning reads and writes the state through these. -/

namespace Sys2Proof.Machine

/-! ## Register cells -/

/-- The contents of a cell (R40). -/
def RegBank.get (b : RegBank) : RegCell → Word
  | .r0 => b.r0
  | .r1 => b.r1
  | .r2 => b.r2
  | .r3 => b.r3
  | .r4 => b.r4
  | .r5 => b.r5
  | .r6 => b.r6
  | .r7 => b.r7
  | .r8Usr => b.r8Usr
  | .r9Usr => b.r9Usr
  | .r10Usr => b.r10Usr
  | .r11Usr => b.r11Usr
  | .r12Usr => b.r12Usr
  | .r8Fiq => b.r8Fiq
  | .r9Fiq => b.r9Fiq
  | .r10Fiq => b.r10Fiq
  | .r11Fiq => b.r11Fiq
  | .r12Fiq => b.r12Fiq
  | .r13Usr => b.r13Usr
  | .r14Usr => b.r14Usr
  | .r13Fiq => b.r13Fiq
  | .r14Fiq => b.r14Fiq
  | .r13Irq => b.r13Irq
  | .r14Irq => b.r14Irq
  | .r13Svc => b.r13Svc
  | .r14Svc => b.r14Svc
  | .r13Abt => b.r13Abt
  | .r14Abt => b.r14Abt
  | .r13Und => b.r13Und
  | .r14Und => b.r14Und
  | .r15 => b.r15

/-- The bank with one cell written (R40). -/
def RegBank.set (b : RegBank) (c : RegCell) (v : Word) : RegBank :=
  match c with
  | .r0 => { b with r0 := v }
  | .r1 => { b with r1 := v }
  | .r2 => { b with r2 := v }
  | .r3 => { b with r3 := v }
  | .r4 => { b with r4 := v }
  | .r5 => { b with r5 := v }
  | .r6 => { b with r6 := v }
  | .r7 => { b with r7 := v }
  | .r8Usr => { b with r8Usr := v }
  | .r9Usr => { b with r9Usr := v }
  | .r10Usr => { b with r10Usr := v }
  | .r11Usr => { b with r11Usr := v }
  | .r12Usr => { b with r12Usr := v }
  | .r8Fiq => { b with r8Fiq := v }
  | .r9Fiq => { b with r9Fiq := v }
  | .r10Fiq => { b with r10Fiq := v }
  | .r11Fiq => { b with r11Fiq := v }
  | .r12Fiq => { b with r12Fiq := v }
  | .r13Usr => { b with r13Usr := v }
  | .r14Usr => { b with r14Usr := v }
  | .r13Fiq => { b with r13Fiq := v }
  | .r14Fiq => { b with r14Fiq := v }
  | .r13Irq => { b with r13Irq := v }
  | .r14Irq => { b with r14Irq := v }
  | .r13Svc => { b with r13Svc := v }
  | .r14Svc => { b with r14Svc := v }
  | .r13Abt => { b with r13Abt := v }
  | .r14Abt => { b with r14Abt := v }
  | .r13Und => { b with r13Und := v }
  | .r14Und => { b with r14Und := v }
  | .r15 => { b with r15 := v }

/-- `slot(mode, i)`: the cell that architectural register i names in a mode (R41). -/
def slot (m : Mode) (i : RegNo) : RegCell :=
  match i.toNat with
  | 0 => .r0 | 1 => .r1 | 2 => .r2 | 3 => .r3 | 4 => .r4 | 5 => .r5 | 6 => .r6 | 7 => .r7
  | 8 => if m = .fiq then .r8Fiq else .r8Usr
  | 9 => if m = .fiq then .r9Fiq else .r9Usr
  | 10 => if m = .fiq then .r10Fiq else .r10Usr
  | 11 => if m = .fiq then .r11Fiq else .r11Usr
  | 12 => if m = .fiq then .r12Fiq else .r12Usr
  | 13 =>
    match m with
    | .usr | .sys => .r13Usr
    | .fiq => .r13Fiq | .irq => .r13Irq | .svc => .r13Svc | .abt => .r13Abt | .und => .r13Und
  | 14 =>
    match m with
    | .usr | .sys => .r14Usr
    | .fiq => .r14Fiq | .irq => .r14Irq | .svc => .r14Svc | .abt => .r14Abt | .und => .r14Und
  | _ => .r15

def State.getCell (s : State) (c : RegCell) : Word := s.regs.get c

def State.setCell (s : State) (c : RegCell) (v : Word) : State := { s with regs := s.regs.set c v }

/-- `pc`: the value held in the R15 cell (R11, R60). -/
def State.pc (s : State) : Word := s.getCell .r15

/-- `pc <- v` (R44). -/
def State.setPc (s : State) (v : Word) : State := s.setCell .r15 v

/-- `ia`, the address of the instruction being executed. A meaning starts with `pc = ia + 4` (R173). -/
def State.ia (s : State) : Word := s.pc - 4#32

/-- The mode that CPSR.M names, if it is a legal one (R47, R49). -/
def State.mode? (s : State) : Option Mode := Mode.ofCode (modeField s.cpsr)

/-- The mode that routes the register accesses of an instruction (R59). `step` refuses an illegal mode before any
access (R171), so the default is read by no step (assumption log 7). -/
def State.mode (s : State) : Mode := s.mode?.getD .usr

/-- `x[i]` inside an instruction: `ia + 8` for R15 (R43). -/
def State.x (s : State) (i : RegNo) : Word :=
  if i = 15#4 then s.ia + 8#32 else s.getCell (slot s.mode i)

/-- `x[i] <- v` inside an instruction (R44). -/
def State.setX (s : State) (i : RegNo) (v : Word) : State := s.setCell (slot s.mode i) v

/-- `x_usr[i]` inside an instruction, whatever the mode (R45); STM(2) stores `ia + 8` for R15 (R317). -/
def State.xUsr (s : State) (i : RegNo) : Word :=
  if i = 15#4 then s.ia + 8#32 else s.getCell (slot .usr i)

/-- `x_usr[i] <- v` (R45). -/
def State.setXUsr (s : State) (i : RegNo) (v : Word) : State := s.setCell (slot .usr i) v

/-! ## Status registers -/

def State.setCpsr (s : State) (p : Psr) : State := { s with cpsr := p }

/-- The saved status register of a mode; USR and SYS have none (R50). -/
def SpsrBank.get? (b : SpsrBank) : Mode → Option Psr
  | .usr => none | .sys => none
  | .fiq => some b.fiq | .irq => some b.irq | .svc => some b.svc | .abt => some b.abt | .und => some b.und

/-- Writing the saved status register of a mode; in USR and SYS nothing is written (R51). -/
def SpsrBank.set (b : SpsrBank) (m : Mode) (p : Psr) : SpsrBank :=
  match m with
  | .usr => b | .sys => b
  | .fiq => { b with fiq := p } | .irq => { b with irq := p } | .svc => { b with svc := p }
  | .abt => { b with abt := p } | .und => { b with und := p }

/-- `SPSR`: the saved status register of the current mode, if it has one (R50). -/
def State.spsr? (s : State) : Option Psr := s.spsrs.get? s.mode

def State.setSpsr (s : State) (m : Mode) (p : Psr) : State := { s with spsrs := s.spsrs.set m p }

/-- A mode is privileged if it is not USR (R48). -/
def Mode.privileged (m : Mode) : Bool := m != .usr

/-- `CPSR.T <- b` (R54). -/
def State.setT (s : State) (b : Bool) : State := s.setCpsr (setThumb s.cpsr b)

/-! ## Memory -/

/-- The byte at an address. -/
def Memory.read : Memory → Nat → Byte
  | [], _ => unlistedByte
  | (k, b) :: rest, a => if k = a then b else Memory.read rest a

/-- The memory with one byte written, in canonical form: rising addresses, and no entry for a byte equal to what an
unlisted address reads as. -/
def Memory.write : Memory → Nat → Byte → Memory
  | [], a, b => if b = unlistedByte then [] else [(a, b)]
  | (k, c) :: rest, a, b =>
    if a < k then (if b = unlistedByte then (k, c) :: rest else (a, b) :: (k, c) :: rest)
    else if a = k then (if b = unlistedByte then rest else (a, b) :: rest)
    else (k, c) :: Memory.write rest a b

/-- The canonical form from address `lo` on: strictly rising addresses and no entry equal to `unlistedByte`. -/
def Memory.wfFrom : Nat → Memory → Bool
  | _, [] => true
  | lo, (k, b) :: rest => decide (lo ≤ k) && b != unlistedByte && Memory.wfFrom (k + 1) rest

/-- The canonical form of memory. -/
def Memory.wf (m : Memory) : Bool := Memory.wfFrom 0 m

/-- Every listed address lies in the array of `n` bytes (R91). -/
def Memory.within (m : Memory) (n : Nat) : Bool := m.all fun cell => decide (cell.1 < n)

/-- The `n` bytes at rising addresses from `a`. -/
def Memory.readBytes (m : Memory) (a : Nat) : Nat → List Byte
  | 0 => []
  | n + 1 => m.read a :: Memory.readBytes m (a + 1) n

/-- The memory with bytes written at rising addresses from `a`. -/
def Memory.writeBytes (m : Memory) (a : Nat) : List Byte → Memory
  | [] => m
  | b :: bs => Memory.writeBytes (m.write a b) (a + 1) bs

/-- The access widths of the memory interface (R92). -/
inductive Width
  | byte | half | word
deriving DecidableEq, Repr

/-- The number of bytes an access moves (R92). -/
def Width.bytes : Width → Nat
  | .byte => 1 | .half => 2 | .word => 4

/-- The byte of memory at an address. -/
def State.byteAt (s : State) (a : Nat) : Byte := s.mem.read a

/-- The access lies fully within [0, MEM_SIZE) (R93); the sum is not wrapped. -/
def State.inMemory (s : State) (w : Width) (a : Word) : Bool := decide (a.toNat + w.bytes ≤ s.params.memSize)

/-- A read of the memory interface (R92): the value zero-extended, or none where the interface answers not ok. -/
def State.load (s : State) (w : Width) (a : Word) : Option Word :=
  if s.inMemory w a then some (assemble s.params.bigEndian (s.mem.readBytes a.toNat w.bytes)) else none

/-- A write of the memory interface (R92): the low bytes of the value stored, or none, and no byte changed, where the
interface answers not ok. -/
def State.store (s : State) (w : Width) (a v : Word) : Option State :=
  if s.inMemory w a then
    some { s with mem := s.mem.writeBytes a.toNat (disassemble s.params.bigEndian w.bytes v) }
  else none

/-- `a AND 0xFFFFFFFC` (R98, R99). -/
def wordAligned (a : Word) : Word := a &&& 0xFFFFFFFC#32

/-- A word load from any address: the aligned word rotated right by 8 × a[1:0] (R98). -/
def State.loadRotated (s : State) (a : Word) : Option Word :=
  (s.load .word (wordAligned a)).map fun v => v.rotateRight (8 * (bits a 0 2).toNat)

/-- A word store to any address: bits [1:0] of the address are cleared (R99). -/
def State.storeAligned (s : State) (a v : Word) : Option State := s.store .word (wordAligned a) v

/-- Word reads at the addresses in order, each with bits [1:0] cleared; none if one of them fails (R310, R313). -/
def State.loadMany (s : State) : List Word → Option (List Word)
  | [] => some []
  | a :: as =>
    match s.load .word (wordAligned a) with
    | none => none
    | some v => (State.loadMany s as).map (v :: ·)

/-- Word writes in order, each address with bits [1:0] cleared. The state holds every write made before the first that
fails; the Boolean says that none failed (R112, R316). -/
def State.storeMany (s : State) : List (Word × Word) → State × Bool
  | [] => (s, true)
  | (a, v) :: rest =>
    match s.store .word (wordAligned a) v with
    | none => (s, false)
    | some t => State.storeMany t rest

/-! ## Taking an exception, and returning from one -/

/-- The cause code (R420). -/
def Cause.code : Cause → Nat
  | .reset => 1 | .undefinedInstruction => 2 | .softwareInterrupt => 3 | .prefetchAbort => 4
  | .dataAbort => 5 | .interrupt => 6 | .fastInterrupt => 7

/-- The mode a cause enters (R421). -/
def Cause.target : Cause → Mode
  | .reset => .svc | .undefinedInstruction => .und | .softwareInterrupt => .svc | .prefetchAbort => .abt
  | .dataAbort => .abt | .interrupt => .irq | .fastInterrupt => .fiq

/-- The vector a cause sends the pc to (R421). -/
def Cause.vector : Cause → Word
  | .reset => 0x00#32 | .undefinedInstruction => 0x04#32 | .softwareInterrupt => 0x08#32 | .prefetchAbort => 0x0C#32
  | .dataAbort => 0x10#32 | .interrupt => 0x18#32 | .fastInterrupt => 0x1C#32

/-- A cause's entry sets CPSR.F (R421). -/
def Cause.setsF : Cause → Bool
  | .reset => true | .fastInterrupt => true
  | .undefinedInstruction => false | .softwareInterrupt => false | .prefetchAbort => false
  | .dataAbort => false | .interrupt => false

/-- A cause's entry saves the CPSR in the target mode's SPSR: all but Reset (R421). -/
def Cause.savesSpsr : Cause → Bool
  | .reset => false
  | .undefinedInstruction => true | .softwareInterrupt => true | .prefetchAbort => true
  | .dataAbort => true | .interrupt => true | .fastInterrupt => true

/-- The CPSR after the entry: M of the target mode, T = 0, I = 1, F = 1 where the cause sets it; the flags and bits
[27:8] are kept (R422). -/
def entryCpsr (e : Cause) (p : Psr) : Psr :=
  let q := setIrqDisable (setThumb (setModeField p e.target.code) false) true
  if e.setsF then setFiqDisable q true else q

/-- `enter(E, ret)` (R422): the one way an exception is taken. -/
def State.enter (e : Cause) (ret : Word) (s : State) : State :=
  { s with
    spsrs := if e.savesSpsr then s.spsrs.set e.target s.cpsr else s.spsrs
    cpsr := entryCpsr e s.cpsr
    regs := (s.regs.set (slot e.target 14#4) ret).set .r15 e.vector
    result := .exception e }

/-- `raise UndefinedInstruction(ia + 4)` (R354, R421). -/
def State.raiseUndefined (s : State) : State := s.enter .undefinedInstruction (s.ia + 4#32)

/-- `raise SoftwareInterrupt(ia + 4)` (R349, R421). -/
def State.raiseSwi (s : State) : State := s.enter .softwareInterrupt (s.ia + 4#32)

/-- `raise DataAbort(ia)` (R95, R421). -/
def State.raiseDataAbort (s : State) : State := s.enter .dataAbort s.ia

/-- `raise PrefetchAbort(ia)` of an executing BKPT (R392, R421). -/
def State.raiseBreakpoint (s : State) : State := s.enter .prefetchAbort s.ia

/-- The return from an exception: `CPSR <- SPSR` and `pc <- target` (R429; R206, R315). -/
def State.returnFrom (saved : Psr) (target : Word) (s : State) : State := (s.setCpsr saved).setPc target

/-- `HALT`: nothing but the result changes (R181, R350). -/
def State.halt (s : State) : State := { s with result := .halt }

/-! ## The frame of an instruction -/

/-- Fetch: one word at pc, or none where the interface answers not ok (R96, R172). -/
def State.fetch (s : State) : Option Word := s.load .word s.pc

/-- The failed fetch's entry: `enter(PrefetchAbort, ia)`, the pc not advanced (R172). -/
def State.fetchAbort (s : State) : State := s.enter .prefetchAbort s.pc

/-- The state in which the fetched instruction executes: `pc <- ia + 4` (R173), and the result of a step that nothing
else sets, code 0 (R178). -/
def State.advance (s : State) : State := { s.setPc (s.pc + 4#32) with result := .normal }

/-- pc[1:0] = 0b00 (R171). -/
def State.pcAligned (s : State) : Bool := bits s.pc 0 2 == 0#2

/-- An instruction whose condition fails is skipped (R175). -/
def State.ifPasses (s : State) (c : Cond) (k : Out) : Out :=
  if condHolds c s.cpsr then k else .next s

/-- A routed instruction with its UNPREDICTABLE conditions: where one holds it is a no-op (R17, R179). -/
def State.unlessUnpredictable (s : State) (u : Bool) (k : Out) : Out :=
  if u then .next s else k

/-- A transfer: the instruction goes on with the value read or the state stored to, or raises DataAbort (R15, R95). -/
def State.orAbort {α : Type} (s : State) (access : Option α) (k : α → State) : Out :=
  match access with
  | none => .next s.raiseDataAbort
  | some v => .next (k v)

/-- The outcome of an instruction the source does not route, once its condition has passed (R380). -/
def State.unrouted (s : State) (k : Out) : Out :=
  match s.params.unrouted with
  | .refuse => .refused .unrouted
  | .undefined => .next s.raiseUndefined
  | .architectural => k

end Sys2Proof.Machine
end

