-- ==== Sys2Proof/Machine/Operands.lean ====
section
/-! DEFINITION. Every operand form: the shifter operand (R200–R203), addressing modes 2, 3 and 4 (R250–R252, R280, R281,
R310–R312), and the rotated immediate (R137). -/

namespace Sys2Proof.Machine

/-! ## The shifter operand -/

/-- `(shifter_operand, shifter_carry_out)` (R200). -/
structure Shifted where
  value : Word
  carryOut : Bool
deriving DecidableEq, Repr

/-- `ROR(zext_8(immed_8), 2 × rotate_imm)` (R137). -/
def rotatedImm (rot : BitVec 4) (imm : BitVec 8) : Word := (imm.setWidth 32).rotateRight (2 * rot.toNat)

/-- The immediate form (R201). -/
def shiftImmediate (rot : BitVec 4) (imm : BitVec 8) (cin : Bool) : Shifted :=
  let v := rotatedImm rot imm
  { value := v, carryOut := if rot = 0#4 then cin else bit v 31 }

/-- RRX: the carry shifted in at bit 31 (R202). -/
def rrx (m : Word) (cin : Bool) : Word := place (flag cin) 31 ||| (m >>> 1)

/-- The immediate-shift form (R202). An amount 0 means 32 for LSR and ASR, and RRX for ROR. -/
def shiftByImm (k : ShiftKind) (amt : BitVec 5) (m : Word) (cin : Bool) : Shifted :=
  let n := amt.toNat
  match k with
  | .lsl => if n = 0 then ⟨m, cin⟩ else ⟨m <<< n, bit m (32 - n)⟩
  | .lsr => if n = 0 then ⟨0#32, bit m 31⟩ else ⟨m >>> n, bit m (n - 1)⟩
  | .asr => if n = 0 then ⟨m.sshiftRight 32, bit m 31⟩ else ⟨m.sshiftRight n, bit m (n - 1)⟩
  | .ror => if n = 0 then ⟨rrx m cin, bit m 0⟩ else ⟨m.rotateRight n, bit m (n - 1)⟩

/-- The register-shift form (R203); `amount` is the low byte of Rs. -/
def shiftByReg (k : ShiftKind) (amount : BitVec 8) (m : Word) (cin : Bool) : Shifted :=
  let n := amount.toNat
  if n = 0 then ⟨m, cin⟩
  else
    match k with
    | .lsl => if n < 32 then ⟨m <<< n, bit m (32 - n)⟩ else if n = 32 then ⟨0#32, bit m 0⟩ else ⟨0#32, false⟩
    | .lsr => if n < 32 then ⟨m >>> n, bit m (n - 1)⟩ else if n = 32 then ⟨0#32, bit m 31⟩ else ⟨0#32, false⟩
    | .asr => if n < 32 then ⟨m.sshiftRight n, bit m (n - 1)⟩ else ⟨m.sshiftRight 32, bit m 31⟩
    | .ror => if n % 32 = 0 then ⟨m, bit m 31⟩ else ⟨m.rotateRight (n % 32), bit m (n % 32 - 1)⟩

/-- The shifter operand of an immediate form in a state (R201). -/
def State.opImm (s : State) (rot : BitVec 4) (imm : BitVec 8) : Shifted :=
  shiftImmediate rot imm (carry s.cpsr)

/-- The shifter operand of an immediate-shift form in a state; Rm = 15 reads `ia + 8` (R202). -/
def State.opImmShift (s : State) (k : ShiftKind) (amt : BitVec 5) (rm : RegNo) : Shifted :=
  shiftByImm k amt (s.x rm) (carry s.cpsr)

/-- The shifter operand of a register-shift form in a state; the amount is x[Rs][7:0] (R203). -/
def State.opRegShift (s : State) (k : ShiftKind) (rs rm : RegNo) : Shifted :=
  shiftByReg k ((s.x rs).setWidth 8) (s.x rm) (carry s.cpsr)

/-- A register of the list is R15 (U1, R204; U32–U34). -/
def anyPc (rs : List RegNo) : Bool := rs.contains 15#4

/-! ## Addressing modes 2 and 3 -/

/-- The base is written back: `wb = (P == 0) or (W == 1)` (R251, R280). -/
def Index.writesBack (i : Index) : Bool := !i.p || i.w

/-- `newbase`: the base plus or minus the offset, modulo 2^32 (R251, R280). -/
def newBase (u : Bool) (base off : Word) : Word := if u then base + off else base - off

/-- `addr`: newbase with P = 1, the base with P = 0 (R251, R280). -/
def transferAddr (i : Index) (base newbase : Word) : Word := if i.p then newbase else base

/-- The base write-back, where the index mode has one (R251, R280). -/
def State.writeBack (s : State) (i : Index) (rn : RegNo) (newbase : Word) : State :=
  if Index.writesBack i then s.setX rn newbase else s

/-- The register offset of mode 2, scaled; the shifter's carry is discarded (R250). -/
def State.scaledOffset (s : State) (k : ShiftKind) (amt : BitVec 5) (rm : RegNo) : Word :=
  (shiftByImm k amt (s.x rm) (carry s.cpsr)).value

/-- U9, U10 and, for a byte transfer, U13 (R252). -/
def unpredictableLs (i : Index) (isByte : Bool) (rn rd : RegNo) : Bool :=
  (Index.writesBack i && rn == 15#4) || (Index.writesBack i && rn == rd) || (isByte && rd == 15#4)

/-- U11 and U12: the register offset (R252). -/
def unpredictableLsReg (i : Index) (rn rm : RegNo) : Bool :=
  rm == 15#4 || (Index.writesBack i && rm == rn)

/-- U14, U16, U15 and U17 of the halfword and signed transfers (R281). -/
def unpredictableMisc (i : Index) (rn rd : RegNo) : Bool :=
  (i == .postW) || (Index.writesBack i && rn == 15#4) || rd == 15#4 || (Index.writesBack i && rn == rd)

/-- U14, U16, U21, U22 and U17 of the doubleword transfers (R281). -/
def unpredictableDouble (i : Index) (rn rd : RegNo) : Bool :=
  (i == .postW) || (Index.writesBack i && rn == 15#4) || rd.getLsbD 0 || rd == 14#4 ||
    (Index.writesBack i && (rn == rd || rn == rd + 1#4))

/-- U18 and U20: the register offset of mode 3 (R281). -/
def unpredictableMiscReg (i : Index) (rn rm : RegNo) : Bool :=
  rm == 15#4 || (Index.writesBack i && rm == rn)

/-- U23: the register offset of LDRD (R281). -/
def unpredictableLdrdReg (rd rm : RegNo) : Bool := rm == rd || rm == rd + 1#4

/-! ## Addressing mode 4 -/

/-- The registers of a list, in ascending order (R311). -/
def regsOf (list : BitVec 16) : List RegNo :=
  (List.range 16).filterMap fun i => if list.getLsbD i then some (BitVec.ofNat 4 i) else none

/-- `popcount(register_list)` (R310). -/
def listCount (list : BitVec 16) : Nat := (regsOf list).length

/-- `4 × popcount(register_list)` (R310). -/
def listBytes (list : BitVec 16) : Word := BitVec.ofNat 32 (4 * listCount list)

/-- `start_address` (R310). -/
def startAddress (md : BlockMode) (base : Word) (list : BitVec 16) : Word :=
  match md with
  | .ia => base
  | .ib => base + 4#32
  | .da => base - listBytes list + 4#32
  | .db => base - listBytes list

/-- `end_address` (R310). -/
def endAddress (md : BlockMode) (base : Word) (list : BitVec 16) : Word :=
  match md with
  | .ia => base + listBytes list - 4#32
  | .ib => base + listBytes list
  | .da => base
  | .db => base - 4#32

/-- The new base of a transfer with W = 1 (R310). -/
def blockNewBase (md : BlockMode) (base : Word) (list : BitVec 16) : Word :=
  if md.u then base + listBytes list else base - listBytes list

/-- The `n` slot addresses `start + 4k`, in ascending order of k (R310). -/
def slotAddrs (start : Word) : Nat → List Word
  | 0 => []
  | n + 1 => start :: slotAddrs (start + 4#32) n

/-- The slot addresses of a transfer (R310). -/
def blockSlots (md : BlockMode) (base : Word) (list : BitVec 16) : List Word :=
  slotAddrs (startAddress md base list) (listCount list)

/-- U25 and U26, of every form (R312). -/
def unpredictableBlock (rn : RegNo) (list : BitVec 16) : Bool := rn == 15#4 || list == 0#16

/-- The register is in the list (R312). -/
def inList (list : BitVec 16) (r : RegNo) : Bool := list.getLsbD r.toNat

/-- U27: LDM with W = 1 and Rn in the list (R312). -/
def unpredictableLdmBase (w : Bool) (rn : RegNo) (list : BitVec 16) : Bool := w && inList list rn

/-- U28: STM with W = 1 and Rn in the list but not its lowest-numbered register (R312). -/
def unpredictableStmBase (w : Bool) (rn : RegNo) (list : BitVec 16) : Bool :=
  w && inList list rn && (regsOf list).head? != some rn

/-- U29: the current mode is USR or SYS (R312). -/
def State.inUsrOrSys (s : State) : Bool := s.mode == .usr || s.mode == .sys

/-- The loaded values written to registers other than R15, in ascending order, by `write` (R313–R315). -/
def writeLoaded (write : State → RegNo → Word → State) : State → List (RegNo × Word) → State
  | s, [] => s
  | s, (r, v) :: rest => writeLoaded write (if r = 15#4 then s else write s r v) rest

/-- The base write-back of a block transfer (R313, R316). -/
def State.blockWriteBack (s : State) (w : Bool) (rn : RegNo) (base : Word) : State :=
  if w then s.setX rn base else s

/-! ## Values loaded -/

/-- `v AND 0xFFFFFFFE` (R253, R313). -/
def clearBit0 (v : Word) : Word := v &&& 0xFFFFFFFE#32

/-- `CPSR.T <- v[0]; pc <- v AND 0xFFFFFFFE`: the interworking branch (R253, R389). -/
def State.branchExchange (s : State) (v : Word) : State := (s.setT (bit v 0)).setPc (clearBit0 v)

/-- `CPSR.T <- CPSR.T EOR v[0]; pc <- v AND 0xFFFFFFFE`: R15 loaded by LDM (R313, R315). -/
def State.branchToggle (s : State) (v : Word) : State :=
  (s.setT (thumb s.cpsr != bit v 0)).setPc (clearBit0 v)

/-- `sext_8` (R14). -/
def sext8 (v : Word) : Word := (v.setWidth 8).signExtend 32

/-- `sext_16` (R14). -/
def sext16 (v : Word) : Word := (v.setWidth 16).signExtend 32

/-- `CountLeadingZeros` over the bits below `n` (R12). -/
def leadingZerosBelow (v : Word) : Nat → Nat
  | 0 => 0
  | n + 1 => if bit v n then 0 else leadingZerosBelow v n + 1

/-- `CountLeadingZeros(v)` (R12): 32 for 0. -/
def countLeadingZeros (v : Word) : Word := BitVec.ofNat 32 (leadingZerosBelow v 32)

end Sys2Proof.Machine
end

