-- ==== Sys2Proof/Machine/Branch.lean ====
section
/-! DEFINITION. B and BL (spec 45_branch_status_swi R340, R341). -/

namespace Sys2Proof.Machine

/-- `sext_24(w[23:0]) × 4` (R137). -/
def branchOffset (imm : BitVec 24) : Word := imm.signExtend 32 <<< 2

/-- `ia + 8 + sext_26(w[23:0] : 0b00)` (R340). -/
def State.branchTarget (s : State) (imm : BitVec 24) : Word := s.ia + 8#32 + branchOffset imm

/-- B (R340). -/
def execB (c : Cond) (imm : BitVec 24) (s : State) : Out :=
  s.ifPasses c (.next (s.setPc (s.branchTarget imm)))

/-- BL (R341): LR of the current mode takes `ia + 4`. -/
def execBl (c : Cond) (imm : BitVec 24) (s : State) : Out :=
  s.ifPasses c (.next ((s.setX 14#4 (s.ia + 4#32)).setPc (s.branchTarget imm)))

end Sys2Proof.Machine
end

