-- ==== Sys2Proof/Machine/DataProcessing.lean ====
section
/-! DEFINITION. The data-processing unit (spec 41_data_processing): the sixteen operations, the common write-back and one
meaning per row of the opcode table. -/

namespace Sys2Proof.Machine

/-! ## The operations (R205, R207–R223): first operand, shifter operand, CPSR -/

/-- A logical result: C from the shifter, V unchanged (R207). -/
def logical (v : Word) (b : Shifted) (p : Psr) : AluResult :=
  { value := v, carryOut := b.carryOut, overflowOut := overflow p }

/-- AND (R208). -/
def aluAnd (a : Word) (b : Shifted) (p : Psr) : AluResult := logical (a &&& b.value) b p
/-- EOR (R209). -/
def aluEor (a : Word) (b : Shifted) (p : Psr) : AluResult := logical (a ^^^ b.value) b p
/-- SUB (R210). -/
def aluSub (a : Word) (b : Shifted) (_ : Psr) : AluResult := addWithCarry a (~~~b.value) true
/-- RSB (R211). -/
def aluRsb (a : Word) (b : Shifted) (_ : Psr) : AluResult := addWithCarry b.value (~~~a) true
/-- ADD (R212). -/
def aluAdd (a : Word) (b : Shifted) (_ : Psr) : AluResult := addWithCarry a b.value false
/-- ADC (R213). -/
def aluAdc (a : Word) (b : Shifted) (p : Psr) : AluResult := addWithCarry a b.value (carry p)
/-- SBC (R214). -/
def aluSbc (a : Word) (b : Shifted) (p : Psr) : AluResult := addWithCarry a (~~~b.value) (carry p)
/-- RSC (R215). -/
def aluRsc (a : Word) (b : Shifted) (p : Psr) : AluResult := addWithCarry b.value (~~~a) (carry p)
/-- TST (R216). -/
def aluTst (a : Word) (b : Shifted) (p : Psr) : AluResult := logical (a &&& b.value) b p
/-- TEQ (R217). -/
def aluTeq (a : Word) (b : Shifted) (p : Psr) : AluResult := logical (a ^^^ b.value) b p
/-- CMP (R218). -/
def aluCmp (a : Word) (b : Shifted) (_ : Psr) : AluResult := addWithCarry a (~~~b.value) true
/-- CMN (R219). -/
def aluCmn (a : Word) (b : Shifted) (_ : Psr) : AluResult := addWithCarry a b.value false
/-- ORR (R220). -/
def aluOrr (a : Word) (b : Shifted) (p : Psr) : AluResult := logical (a ||| b.value) b p
/-- MOV (R221). -/
def aluMov (b : Shifted) (p : Psr) : AluResult := logical b.value b p
/-- BIC (R222). -/
def aluBic (a : Word) (b : Shifted) (p : Psr) : AluResult := logical (a &&& ~~~b.value) b p
/-- MVN (R223). -/
def aluMvn (b : Shifted) (p : Psr) : AluResult := logical (~~~b.value) b p

/-! ## The write-back of R206 -/

/-- The flags of a result. -/
def State.setFlags (s : State) (r : AluResult) : State := s.setCpsr (setNZCV s.cpsr r)

/-- The ordinary write-back: `x[Rd] <- result`, and the flags with S = 1 (R206, last branch). -/
def State.writeResult (s : State) (sf : Bool) (rd : RegNo) (r : AluResult) : State :=
  if sf then (s.setX rd r.value).setFlags r else s.setX rd r.value

/-- The write-back of an operation that is no comparison (R206): with S = 1 and Rd = 15 in a mode that has an SPSR, the
mode-return idiom (U2 where the SPSR holds an illegal mode); otherwise the ordinary write-back. -/
def dpWrite (s : State) (sf : Bool) (rd : RegNo) (r : AluResult) : Out :=
  if sf && rd == 15#4 then
    match s.spsr? with
    | some saved => s.unlessUnpredictable (!legalMode saved) (.next (s.returnFrom saved r.value))
    | none => .next (s.writeResult sf rd r)
  else .next (s.writeResult sf rd r)

/-- The write-back of a comparison: the flags only (R206, first branch). -/
def dpCompare (s : State) (r : AluResult) : Out := .next (s.setFlags r)

/-! ## The meanings -/

/-- AND, immediate (R208, R201). -/
def execAndImm (c : Cond) (sf : Bool) (rd rn : RegNo) (rot : BitVec 4) (imm : BitVec 8) (s : State) : Out :=
  s.ifPasses c (dpWrite s sf rd (aluAnd (s.x rn) (s.opImm rot imm) s.cpsr))

/-- AND, immediate shift (R208, R202). -/
def execAndImmShift (c : Cond) (sf : Bool) (rd rn : RegNo) (k : ShiftKind) (amt : BitVec 5) (rm : RegNo) (s : State) : Out :=
  s.ifPasses c (dpWrite s sf rd (aluAnd (s.x rn) (s.opImmShift k amt rm) s.cpsr))

/-- AND, register shift (R208, R203); R15 in a register field is U1 (R204). -/
def execAndRegShift (c : Cond) (sf : Bool) (rd rn : RegNo) (k : ShiftKind) (rs rm : RegNo) (s : State) : Out :=
  s.ifPasses c (s.unlessUnpredictable (anyPc [rd, rn, rm, rs])
    (dpWrite s sf rd (aluAnd (s.x rn) (s.opRegShift k rs rm) s.cpsr)))

/-- EOR, immediate (R209, R201). -/
def execEorImm (c : Cond) (sf : Bool) (rd rn : RegNo) (rot : BitVec 4) (imm : BitVec 8) (s : State) : Out :=
  s.ifPasses c (dpWrite s sf rd (aluEor (s.x rn) (s.opImm rot imm) s.cpsr))

/-- EOR, immediate shift (R209, R202). -/
def execEorImmShift (c : Cond) (sf : Bool) (rd rn : RegNo) (k : ShiftKind) (amt : BitVec 5) (rm : RegNo) (s : State) : Out :=
  s.ifPasses c (dpWrite s sf rd (aluEor (s.x rn) (s.opImmShift k amt rm) s.cpsr))

/-- EOR, register shift (R209, R203); R15 in a register field is U1 (R204). -/
def execEorRegShift (c : Cond) (sf : Bool) (rd rn : RegNo) (k : ShiftKind) (rs rm : RegNo) (s : State) : Out :=
  s.ifPasses c (s.unlessUnpredictable (anyPc [rd, rn, rm, rs])
    (dpWrite s sf rd (aluEor (s.x rn) (s.opRegShift k rs rm) s.cpsr)))

/-- SUB, immediate (R210, R201). -/
def execSubImm (c : Cond) (sf : Bool) (rd rn : RegNo) (rot : BitVec 4) (imm : BitVec 8) (s : State) : Out :=
  s.ifPasses c (dpWrite s sf rd (aluSub (s.x rn) (s.opImm rot imm) s.cpsr))

/-- SUB, immediate shift (R210, R202). -/
def execSubImmShift (c : Cond) (sf : Bool) (rd rn : RegNo) (k : ShiftKind) (amt : BitVec 5) (rm : RegNo) (s : State) : Out :=
  s.ifPasses c (dpWrite s sf rd (aluSub (s.x rn) (s.opImmShift k amt rm) s.cpsr))

/-- SUB, register shift (R210, R203); R15 in a register field is U1 (R204). -/
def execSubRegShift (c : Cond) (sf : Bool) (rd rn : RegNo) (k : ShiftKind) (rs rm : RegNo) (s : State) : Out :=
  s.ifPasses c (s.unlessUnpredictable (anyPc [rd, rn, rm, rs])
    (dpWrite s sf rd (aluSub (s.x rn) (s.opRegShift k rs rm) s.cpsr)))

/-- RSB, immediate (R211, R201). -/
def execRsbImm (c : Cond) (sf : Bool) (rd rn : RegNo) (rot : BitVec 4) (imm : BitVec 8) (s : State) : Out :=
  s.ifPasses c (dpWrite s sf rd (aluRsb (s.x rn) (s.opImm rot imm) s.cpsr))

/-- RSB, immediate shift (R211, R202). -/
def execRsbImmShift (c : Cond) (sf : Bool) (rd rn : RegNo) (k : ShiftKind) (amt : BitVec 5) (rm : RegNo) (s : State) : Out :=
  s.ifPasses c (dpWrite s sf rd (aluRsb (s.x rn) (s.opImmShift k amt rm) s.cpsr))

/-- RSB, register shift (R211, R203); R15 in a register field is U1 (R204). -/
def execRsbRegShift (c : Cond) (sf : Bool) (rd rn : RegNo) (k : ShiftKind) (rs rm : RegNo) (s : State) : Out :=
  s.ifPasses c (s.unlessUnpredictable (anyPc [rd, rn, rm, rs])
    (dpWrite s sf rd (aluRsb (s.x rn) (s.opRegShift k rs rm) s.cpsr)))

/-- ADD, immediate (R212, R201). -/
def execAddImm (c : Cond) (sf : Bool) (rd rn : RegNo) (rot : BitVec 4) (imm : BitVec 8) (s : State) : Out :=
  s.ifPasses c (dpWrite s sf rd (aluAdd (s.x rn) (s.opImm rot imm) s.cpsr))

/-- ADD, immediate shift (R212, R202). -/
def execAddImmShift (c : Cond) (sf : Bool) (rd rn : RegNo) (k : ShiftKind) (amt : BitVec 5) (rm : RegNo) (s : State) : Out :=
  s.ifPasses c (dpWrite s sf rd (aluAdd (s.x rn) (s.opImmShift k amt rm) s.cpsr))

/-- ADD, register shift (R212, R203); R15 in a register field is U1 (R204). -/
def execAddRegShift (c : Cond) (sf : Bool) (rd rn : RegNo) (k : ShiftKind) (rs rm : RegNo) (s : State) : Out :=
  s.ifPasses c (s.unlessUnpredictable (anyPc [rd, rn, rm, rs])
    (dpWrite s sf rd (aluAdd (s.x rn) (s.opRegShift k rs rm) s.cpsr)))

/-- ADC, immediate (R213, R201). -/
def execAdcImm (c : Cond) (sf : Bool) (rd rn : RegNo) (rot : BitVec 4) (imm : BitVec 8) (s : State) : Out :=
  s.ifPasses c (dpWrite s sf rd (aluAdc (s.x rn) (s.opImm rot imm) s.cpsr))

/-- ADC, immediate shift (R213, R202). -/
def execAdcImmShift (c : Cond) (sf : Bool) (rd rn : RegNo) (k : ShiftKind) (amt : BitVec 5) (rm : RegNo) (s : State) : Out :=
  s.ifPasses c (dpWrite s sf rd (aluAdc (s.x rn) (s.opImmShift k amt rm) s.cpsr))

/-- ADC, register shift (R213, R203); R15 in a register field is U1 (R204). -/
def execAdcRegShift (c : Cond) (sf : Bool) (rd rn : RegNo) (k : ShiftKind) (rs rm : RegNo) (s : State) : Out :=
  s.ifPasses c (s.unlessUnpredictable (anyPc [rd, rn, rm, rs])
    (dpWrite s sf rd (aluAdc (s.x rn) (s.opRegShift k rs rm) s.cpsr)))

/-- SBC, immediate (R214, R201). -/
def execSbcImm (c : Cond) (sf : Bool) (rd rn : RegNo) (rot : BitVec 4) (imm : BitVec 8) (s : State) : Out :=
  s.ifPasses c (dpWrite s sf rd (aluSbc (s.x rn) (s.opImm rot imm) s.cpsr))

/-- SBC, immediate shift (R214, R202). -/
def execSbcImmShift (c : Cond) (sf : Bool) (rd rn : RegNo) (k : ShiftKind) (amt : BitVec 5) (rm : RegNo) (s : State) : Out :=
  s.ifPasses c (dpWrite s sf rd (aluSbc (s.x rn) (s.opImmShift k amt rm) s.cpsr))

/-- SBC, register shift (R214, R203); R15 in a register field is U1 (R204). -/
def execSbcRegShift (c : Cond) (sf : Bool) (rd rn : RegNo) (k : ShiftKind) (rs rm : RegNo) (s : State) : Out :=
  s.ifPasses c (s.unlessUnpredictable (anyPc [rd, rn, rm, rs])
    (dpWrite s sf rd (aluSbc (s.x rn) (s.opRegShift k rs rm) s.cpsr)))

/-- RSC, immediate (R215, R201). -/
def execRscImm (c : Cond) (sf : Bool) (rd rn : RegNo) (rot : BitVec 4) (imm : BitVec 8) (s : State) : Out :=
  s.ifPasses c (dpWrite s sf rd (aluRsc (s.x rn) (s.opImm rot imm) s.cpsr))

/-- RSC, immediate shift (R215, R202). -/
def execRscImmShift (c : Cond) (sf : Bool) (rd rn : RegNo) (k : ShiftKind) (amt : BitVec 5) (rm : RegNo) (s : State) : Out :=
  s.ifPasses c (dpWrite s sf rd (aluRsc (s.x rn) (s.opImmShift k amt rm) s.cpsr))

/-- RSC, register shift (R215, R203); R15 in a register field is U1 (R204). -/
def execRscRegShift (c : Cond) (sf : Bool) (rd rn : RegNo) (k : ShiftKind) (rs rm : RegNo) (s : State) : Out :=
  s.ifPasses c (s.unlessUnpredictable (anyPc [rd, rn, rm, rs])
    (dpWrite s sf rd (aluRsc (s.x rn) (s.opRegShift k rs rm) s.cpsr)))

/-- TST, immediate (R216, R201). -/
def execTstImm (c : Cond) (rn : RegNo) (rot : BitVec 4) (imm : BitVec 8) (s : State) : Out :=
  s.ifPasses c (dpCompare s (aluTst (s.x rn) (s.opImm rot imm) s.cpsr))

/-- TST, immediate shift (R216, R202). -/
def execTstImmShift (c : Cond) (rn : RegNo) (k : ShiftKind) (amt : BitVec 5) (rm : RegNo) (s : State) : Out :=
  s.ifPasses c (dpCompare s (aluTst (s.x rn) (s.opImmShift k amt rm) s.cpsr))

/-- TST, register shift (R216, R203); R15 in a register field is U1 (R204). -/
def execTstRegShift (c : Cond) (rn : RegNo) (k : ShiftKind) (rs rm : RegNo) (s : State) : Out :=
  s.ifPasses c (s.unlessUnpredictable (anyPc [rn, rm, rs])
    (dpCompare s (aluTst (s.x rn) (s.opRegShift k rs rm) s.cpsr)))

/-- TEQ, immediate (R217, R201). -/
def execTeqImm (c : Cond) (rn : RegNo) (rot : BitVec 4) (imm : BitVec 8) (s : State) : Out :=
  s.ifPasses c (dpCompare s (aluTeq (s.x rn) (s.opImm rot imm) s.cpsr))

/-- TEQ, immediate shift (R217, R202). -/
def execTeqImmShift (c : Cond) (rn : RegNo) (k : ShiftKind) (amt : BitVec 5) (rm : RegNo) (s : State) : Out :=
  s.ifPasses c (dpCompare s (aluTeq (s.x rn) (s.opImmShift k amt rm) s.cpsr))

/-- TEQ, register shift (R217, R203); R15 in a register field is U1 (R204). -/
def execTeqRegShift (c : Cond) (rn : RegNo) (k : ShiftKind) (rs rm : RegNo) (s : State) : Out :=
  s.ifPasses c (s.unlessUnpredictable (anyPc [rn, rm, rs])
    (dpCompare s (aluTeq (s.x rn) (s.opRegShift k rs rm) s.cpsr)))

/-- CMP, immediate (R218, R201). -/
def execCmpImm (c : Cond) (rn : RegNo) (rot : BitVec 4) (imm : BitVec 8) (s : State) : Out :=
  s.ifPasses c (dpCompare s (aluCmp (s.x rn) (s.opImm rot imm) s.cpsr))

/-- CMP, immediate shift (R218, R202). -/
def execCmpImmShift (c : Cond) (rn : RegNo) (k : ShiftKind) (amt : BitVec 5) (rm : RegNo) (s : State) : Out :=
  s.ifPasses c (dpCompare s (aluCmp (s.x rn) (s.opImmShift k amt rm) s.cpsr))

/-- CMP, register shift (R218, R203); R15 in a register field is U1 (R204). -/
def execCmpRegShift (c : Cond) (rn : RegNo) (k : ShiftKind) (rs rm : RegNo) (s : State) : Out :=
  s.ifPasses c (s.unlessUnpredictable (anyPc [rn, rm, rs])
    (dpCompare s (aluCmp (s.x rn) (s.opRegShift k rs rm) s.cpsr)))

/-- CMN, immediate (R219, R201). -/
def execCmnImm (c : Cond) (rn : RegNo) (rot : BitVec 4) (imm : BitVec 8) (s : State) : Out :=
  s.ifPasses c (dpCompare s (aluCmn (s.x rn) (s.opImm rot imm) s.cpsr))

/-- CMN, immediate shift (R219, R202). -/
def execCmnImmShift (c : Cond) (rn : RegNo) (k : ShiftKind) (amt : BitVec 5) (rm : RegNo) (s : State) : Out :=
  s.ifPasses c (dpCompare s (aluCmn (s.x rn) (s.opImmShift k amt rm) s.cpsr))

/-- CMN, register shift (R219, R203); R15 in a register field is U1 (R204). -/
def execCmnRegShift (c : Cond) (rn : RegNo) (k : ShiftKind) (rs rm : RegNo) (s : State) : Out :=
  s.ifPasses c (s.unlessUnpredictable (anyPc [rn, rm, rs])
    (dpCompare s (aluCmn (s.x rn) (s.opRegShift k rs rm) s.cpsr)))

/-- ORR, immediate (R220, R201). -/
def execOrrImm (c : Cond) (sf : Bool) (rd rn : RegNo) (rot : BitVec 4) (imm : BitVec 8) (s : State) : Out :=
  s.ifPasses c (dpWrite s sf rd (aluOrr (s.x rn) (s.opImm rot imm) s.cpsr))

/-- ORR, immediate shift (R220, R202). -/
def execOrrImmShift (c : Cond) (sf : Bool) (rd rn : RegNo) (k : ShiftKind) (amt : BitVec 5) (rm : RegNo) (s : State) : Out :=
  s.ifPasses c (dpWrite s sf rd (aluOrr (s.x rn) (s.opImmShift k amt rm) s.cpsr))

/-- ORR, register shift (R220, R203); R15 in a register field is U1 (R204). -/
def execOrrRegShift (c : Cond) (sf : Bool) (rd rn : RegNo) (k : ShiftKind) (rs rm : RegNo) (s : State) : Out :=
  s.ifPasses c (s.unlessUnpredictable (anyPc [rd, rn, rm, rs])
    (dpWrite s sf rd (aluOrr (s.x rn) (s.opRegShift k rs rm) s.cpsr)))

/-- MOV, immediate (R221, R201). -/
def execMovImm (c : Cond) (sf : Bool) (rd : RegNo) (rot : BitVec 4) (imm : BitVec 8) (s : State) : Out :=
  s.ifPasses c (dpWrite s sf rd (aluMov (s.opImm rot imm) s.cpsr))

/-- MOV, immediate shift (R221, R202). -/
def execMovImmShift (c : Cond) (sf : Bool) (rd : RegNo) (k : ShiftKind) (amt : BitVec 5) (rm : RegNo) (s : State) : Out :=
  s.ifPasses c (dpWrite s sf rd (aluMov (s.opImmShift k amt rm) s.cpsr))

/-- MOV, register shift (R221, R203); R15 in a register field is U1 (R204). -/
def execMovRegShift (c : Cond) (sf : Bool) (rd : RegNo) (k : ShiftKind) (rs rm : RegNo) (s : State) : Out :=
  s.ifPasses c (s.unlessUnpredictable (anyPc [rd, rm, rs])
    (dpWrite s sf rd (aluMov (s.opRegShift k rs rm) s.cpsr)))

/-- BIC, immediate (R222, R201). -/
def execBicImm (c : Cond) (sf : Bool) (rd rn : RegNo) (rot : BitVec 4) (imm : BitVec 8) (s : State) : Out :=
  s.ifPasses c (dpWrite s sf rd (aluBic (s.x rn) (s.opImm rot imm) s.cpsr))

/-- BIC, immediate shift (R222, R202). -/
def execBicImmShift (c : Cond) (sf : Bool) (rd rn : RegNo) (k : ShiftKind) (amt : BitVec 5) (rm : RegNo) (s : State) : Out :=
  s.ifPasses c (dpWrite s sf rd (aluBic (s.x rn) (s.opImmShift k amt rm) s.cpsr))

/-- BIC, register shift (R222, R203); R15 in a register field is U1 (R204). -/
def execBicRegShift (c : Cond) (sf : Bool) (rd rn : RegNo) (k : ShiftKind) (rs rm : RegNo) (s : State) : Out :=
  s.ifPasses c (s.unlessUnpredictable (anyPc [rd, rn, rm, rs])
    (dpWrite s sf rd (aluBic (s.x rn) (s.opRegShift k rs rm) s.cpsr)))

/-- MVN, immediate (R223, R201). -/
def execMvnImm (c : Cond) (sf : Bool) (rd : RegNo) (rot : BitVec 4) (imm : BitVec 8) (s : State) : Out :=
  s.ifPasses c (dpWrite s sf rd (aluMvn (s.opImm rot imm) s.cpsr))

/-- MVN, immediate shift (R223, R202). -/
def execMvnImmShift (c : Cond) (sf : Bool) (rd : RegNo) (k : ShiftKind) (amt : BitVec 5) (rm : RegNo) (s : State) : Out :=
  s.ifPasses c (dpWrite s sf rd (aluMvn (s.opImmShift k amt rm) s.cpsr))

/-- MVN, register shift (R223, R203); R15 in a register field is U1 (R204). -/
def execMvnRegShift (c : Cond) (sf : Bool) (rd : RegNo) (k : ShiftKind) (rs rm : RegNo) (s : State) : Out :=
  s.ifPasses c (s.unlessUnpredictable (anyPc [rd, rm, rs])
    (dpWrite s sf rd (aluMvn (s.opRegShift k rs rm) s.cpsr)))

end Sys2Proof.Machine
end

