-- ==== Sys2Proof/Machine/LoadStore.lean ====
section
/-! DEFINITION. Load and store word and unsigned byte, addressing mode 2 (spec 42_load_store_word_byte). The four shared
transfers, then one meaning per row. The T forms behave as the post-indexed non-T forms (R257–R260): the memory interface
has no permissions. -/

namespace Sys2Proof.Machine

/-- LDR once the offset is known (R253): `newbase` and `addr` of R251, the rotated word, the base write-back, then
R15 by the interworking branch or another register. -/
def ldrWith (s : State) (i : Index) (u : Bool) (rn rd : RegNo) (off : Word) : Out :=
  let nb := newBase u (s.x rn) off
  s.orAbort (s.loadRotated (transferAddr i (s.x rn) nb)) fun data =>
    if rd = 15#4 then (s.writeBack i rn nb).branchExchange data else (s.writeBack i rn nb).setX rd data

/-- STR once the offset is known (R254): the stored register is read before the write-back. -/
def strWith (s : State) (i : Index) (u : Bool) (rn rd : RegNo) (off : Word) : Out :=
  let nb := newBase u (s.x rn) off
  s.orAbort (s.storeAligned (transferAddr i (s.x rn) nb) (s.x rd)) fun t => t.writeBack i rn nb

/-- LDRB once the offset is known (R255). -/
def ldrbWith (s : State) (i : Index) (u : Bool) (rn rd : RegNo) (off : Word) : Out :=
  let nb := newBase u (s.x rn) off
  s.orAbort (s.load .byte (transferAddr i (s.x rn) nb)) fun data => (s.writeBack i rn nb).setX rd data

/-- STRB once the offset is known (R256). -/
def strbWith (s : State) (i : Index) (u : Bool) (rn rd : RegNo) (off : Word) : Out :=
  let nb := newBase u (s.x rn) off
  s.orAbort (s.store .byte (transferAddr i (s.x rn) nb) (s.x rd)) fun t => t.writeBack i rn nb

/-- LDR, immediate offset (R253, R250, R252). -/
def execLdrImm (c : Cond) (i : Index) (u : Bool) (rn rd : RegNo) (off : BitVec 12) (s : State) : Out :=
  s.ifPasses c (s.unlessUnpredictable (unpredictableLs i false rn rd) (ldrWith s i u rn rd (off.setWidth 32)))

/-- LDR, register offset (R253, R250, R252). -/
def execLdrReg (c : Cond) (i : Index) (u : Bool) (rn rd : RegNo) (k : ShiftKind) (amt : BitVec 5) (rm : RegNo)
    (s : State) : Out :=
  s.ifPasses c (s.unlessUnpredictable (unpredictableLsReg i rn rm || unpredictableLs i false rn rd)
    (ldrWith s i u rn rd (s.scaledOffset k amt rm)))

/-- LDRB, immediate offset (R255, R250, R252). -/
def execLdrbImm (c : Cond) (i : Index) (u : Bool) (rn rd : RegNo) (off : BitVec 12) (s : State) : Out :=
  s.ifPasses c (s.unlessUnpredictable (unpredictableLs i true rn rd) (ldrbWith s i u rn rd (off.setWidth 32)))

/-- LDRB, register offset (R255, R250, R252). -/
def execLdrbReg (c : Cond) (i : Index) (u : Bool) (rn rd : RegNo) (k : ShiftKind) (amt : BitVec 5) (rm : RegNo)
    (s : State) : Out :=
  s.ifPasses c (s.unlessUnpredictable (unpredictableLsReg i rn rm || unpredictableLs i true rn rd)
    (ldrbWith s i u rn rd (s.scaledOffset k amt rm)))

/-- STR, immediate offset (R254, R250, R252). -/
def execStrImm (c : Cond) (i : Index) (u : Bool) (rn rd : RegNo) (off : BitVec 12) (s : State) : Out :=
  s.ifPasses c (s.unlessUnpredictable (unpredictableLs i false rn rd) (strWith s i u rn rd (off.setWidth 32)))

/-- STR, register offset (R254, R250, R252). -/
def execStrReg (c : Cond) (i : Index) (u : Bool) (rn rd : RegNo) (k : ShiftKind) (amt : BitVec 5) (rm : RegNo)
    (s : State) : Out :=
  s.ifPasses c (s.unlessUnpredictable (unpredictableLsReg i rn rm || unpredictableLs i false rn rd)
    (strWith s i u rn rd (s.scaledOffset k amt rm)))

/-- STRB, immediate offset (R256, R250, R252). -/
def execStrbImm (c : Cond) (i : Index) (u : Bool) (rn rd : RegNo) (off : BitVec 12) (s : State) : Out :=
  s.ifPasses c (s.unlessUnpredictable (unpredictableLs i true rn rd) (strbWith s i u rn rd (off.setWidth 32)))

/-- STRB, register offset (R256, R250, R252). -/
def execStrbReg (c : Cond) (i : Index) (u : Bool) (rn rd : RegNo) (k : ShiftKind) (amt : BitVec 5) (rm : RegNo)
    (s : State) : Out :=
  s.ifPasses c (s.unlessUnpredictable (unpredictableLsReg i rn rm || unpredictableLs i true rn rd)
    (strbWith s i u rn rd (s.scaledOffset k amt rm)))

/-- LDRT, immediate offset (R257): as LDR post-indexed. -/
def execLdrtImm (c : Cond) (u : Bool) (rn rd : RegNo) (off : BitVec 12) (s : State) : Out :=
  s.ifPasses c (s.unlessUnpredictable (unpredictableLs .postW false rn rd)
    (ldrWith s .postW u rn rd (off.setWidth 32)))

/-- LDRT, register offset (R257): as LDR post-indexed. -/
def execLdrtReg (c : Cond) (u : Bool) (rn rd : RegNo) (k : ShiftKind) (amt : BitVec 5) (rm : RegNo) (s : State) :
    Out :=
  s.ifPasses c (s.unlessUnpredictable (unpredictableLsReg .postW rn rm || unpredictableLs .postW false rn rd)
    (ldrWith s .postW u rn rd (s.scaledOffset k amt rm)))

/-- LDRBT, immediate offset (R259): as LDRB post-indexed. -/
def execLdrbtImm (c : Cond) (u : Bool) (rn rd : RegNo) (off : BitVec 12) (s : State) : Out :=
  s.ifPasses c (s.unlessUnpredictable (unpredictableLs .postW true rn rd)
    (ldrbWith s .postW u rn rd (off.setWidth 32)))

/-- LDRBT, register offset (R259): as LDRB post-indexed. -/
def execLdrbtReg (c : Cond) (u : Bool) (rn rd : RegNo) (k : ShiftKind) (amt : BitVec 5) (rm : RegNo) (s : State) :
    Out :=
  s.ifPasses c (s.unlessUnpredictable (unpredictableLsReg .postW rn rm || unpredictableLs .postW true rn rd)
    (ldrbWith s .postW u rn rd (s.scaledOffset k amt rm)))

/-- STRT, immediate offset (R258): as STR post-indexed. -/
def execStrtImm (c : Cond) (u : Bool) (rn rd : RegNo) (off : BitVec 12) (s : State) : Out :=
  s.ifPasses c (s.unlessUnpredictable (unpredictableLs .postW false rn rd)
    (strWith s .postW u rn rd (off.setWidth 32)))

/-- STRT, register offset (R258): as STR post-indexed. -/
def execStrtReg (c : Cond) (u : Bool) (rn rd : RegNo) (k : ShiftKind) (amt : BitVec 5) (rm : RegNo) (s : State) :
    Out :=
  s.ifPasses c (s.unlessUnpredictable (unpredictableLsReg .postW rn rm || unpredictableLs .postW false rn rd)
    (strWith s .postW u rn rd (s.scaledOffset k amt rm)))

/-- STRBT, immediate offset (R260): as STRB post-indexed. -/
def execStrbtImm (c : Cond) (u : Bool) (rn rd : RegNo) (off : BitVec 12) (s : State) : Out :=
  s.ifPasses c (s.unlessUnpredictable (unpredictableLs .postW true rn rd)
    (strbWith s .postW u rn rd (off.setWidth 32)))

/-- STRBT, register offset (R260): as STRB post-indexed. -/
def execStrbtReg (c : Cond) (u : Bool) (rn rd : RegNo) (k : ShiftKind) (amt : BitVec 5) (rm : RegNo) (s : State) :
    Out :=
  s.ifPasses c (s.unlessUnpredictable (unpredictableLsReg .postW rn rm || unpredictableLs .postW true rn rd)
    (strbWith s .postW u rn rd (s.scaledOffset k amt rm)))

end Sys2Proof.Machine
end

