-- ==== Sys2Proof/Machine/LoadStoreMisc.lean ====
section
/-! DEFINITION. Load and store halfword, signed and doubleword, addressing mode 3 (spec 43_load_store_misc): the shared
transfers, then one meaning per row. -/

namespace Sys2Proof.Machine

/-- A load of one register, once the offset is known: `width` bytes extended by `ext` (R282, R284, R285). An odd
halfword address is U19 (R100). -/
def loadMiscWith (s : State) (w : Width) (ext : Word → Word) (i : Index) (u : Bool) (rn rd : RegNo) (off : Word) :
    Out :=
  let nb := newBase u (s.x rn) off
  let a := transferAddr i (s.x rn) nb
  s.unlessUnpredictable (w == .half && bit a 0)
    (s.orAbort (s.load w a) fun data => (s.writeBack i rn nb).setX rd (ext data))

/-- STRH once the offset is known (R283). An odd address is U19 (R100). -/
def strhWith (s : State) (i : Index) (u : Bool) (rn rd : RegNo) (off : Word) : Out :=
  let nb := newBase u (s.x rn) off
  let a := transferAddr i (s.x rn) nb
  s.unlessUnpredictable (bit a 0)
    (s.orAbort (s.store .half a (s.x rd)) fun t => t.writeBack i rn nb)

/-- The two words of a doubleword, in order; none if either read fails (R286). -/
def State.loadDouble (s : State) (a : Word) : Option (Word × Word) :=
  match s.load .word a with
  | none => none
  | some lo => (s.load .word (a + 4#32)).map fun hi => (lo, hi)

/-- LDRD once the offset is known (R286). A misaligned address is U24 (R100). -/
def ldrdWith (s : State) (i : Index) (u : Bool) (rn rd : RegNo) (off : Word) : Out :=
  let nb := newBase u (s.x rn) off
  let a := transferAddr i (s.x rn) nb
  s.unlessUnpredictable (bits a 0 3 != 0#3)
    (s.orAbort (s.loadDouble a) fun v => ((s.writeBack i rn nb).setX rd v.1).setX (rd + 1#4) v.2)

/-- STRD once the offset is known (R287). The first write stays where the second fails (R112, R288). -/
def strdWith (s : State) (i : Index) (u : Bool) (rn rd : RegNo) (off : Word) : Out :=
  let nb := newBase u (s.x rn) off
  let a := transferAddr i (s.x rn) nb
  s.unlessUnpredictable (bits a 0 3 != 0#3)
    (match s.store .word a (s.x rd) with
    | none => .next s.raiseDataAbort
    | some t => t.orAbort (t.store .word (a + 4#32) (s.x (rd + 1#4))) fun t' => t'.writeBack i rn nb)

/-- LDRH, immediate offset (R282, R280, R281). -/
def execLdrhImm (c : Cond) (i : Index) (u : Bool) (rn rd : RegNo) (off : BitVec 8) (s : State) : Out :=
  s.ifPasses c (s.unlessUnpredictable (unpredictableMisc i rn rd)
    (loadMiscWith s .half id i u rn rd (off.setWidth 32)))

/-- LDRH, register offset (R282, R280, R281). -/
def execLdrhReg (c : Cond) (i : Index) (u : Bool) (rn rd rm : RegNo) (s : State) : Out :=
  s.ifPasses c (s.unlessUnpredictable (unpredictableMiscReg i rn rm || unpredictableMisc i rn rd)
    (loadMiscWith s .half id i u rn rd (s.x rm)))

/-- STRH, immediate offset (R283, R280, R281). -/
def execStrhImm (c : Cond) (i : Index) (u : Bool) (rn rd : RegNo) (off : BitVec 8) (s : State) : Out :=
  s.ifPasses c (s.unlessUnpredictable (unpredictableMisc i rn rd)
    (strhWith s i u rn rd (off.setWidth 32)))

/-- STRH, register offset (R283, R280, R281). -/
def execStrhReg (c : Cond) (i : Index) (u : Bool) (rn rd rm : RegNo) (s : State) : Out :=
  s.ifPasses c (s.unlessUnpredictable (unpredictableMiscReg i rn rm || unpredictableMisc i rn rd)
    (strhWith s i u rn rd (s.x rm)))

/-- LDRSB, immediate offset (R284, R280, R281). -/
def execLdrsbImm (c : Cond) (i : Index) (u : Bool) (rn rd : RegNo) (off : BitVec 8) (s : State) : Out :=
  s.ifPasses c (s.unlessUnpredictable (unpredictableMisc i rn rd)
    (loadMiscWith s .byte sext8 i u rn rd (off.setWidth 32)))

/-- LDRSB, register offset (R284, R280, R281). -/
def execLdrsbReg (c : Cond) (i : Index) (u : Bool) (rn rd rm : RegNo) (s : State) : Out :=
  s.ifPasses c (s.unlessUnpredictable (unpredictableMiscReg i rn rm || unpredictableMisc i rn rd)
    (loadMiscWith s .byte sext8 i u rn rd (s.x rm)))

/-- LDRSH, immediate offset (R285, R280, R281). -/
def execLdrshImm (c : Cond) (i : Index) (u : Bool) (rn rd : RegNo) (off : BitVec 8) (s : State) : Out :=
  s.ifPasses c (s.unlessUnpredictable (unpredictableMisc i rn rd)
    (loadMiscWith s .half sext16 i u rn rd (off.setWidth 32)))

/-- LDRSH, register offset (R285, R280, R281). -/
def execLdrshReg (c : Cond) (i : Index) (u : Bool) (rn rd rm : RegNo) (s : State) : Out :=
  s.ifPasses c (s.unlessUnpredictable (unpredictableMiscReg i rn rm || unpredictableMisc i rn rd)
    (loadMiscWith s .half sext16 i u rn rd (s.x rm)))

/-- LDRD, immediate offset (R286, R280, R281). -/
def execLdrdImm (c : Cond) (i : Index) (u : Bool) (rn rd : RegNo) (off : BitVec 8) (s : State) : Out :=
  s.ifPasses c (s.unlessUnpredictable (unpredictableDouble i rn rd)
    (ldrdWith s i u rn rd (off.setWidth 32)))

/-- LDRD, register offset (R286, R280, R281). -/
def execLdrdReg (c : Cond) (i : Index) (u : Bool) (rn rd rm : RegNo) (s : State) : Out :=
  s.ifPasses c (s.unlessUnpredictable (unpredictableMiscReg i rn rm || unpredictableLdrdReg rd rm || unpredictableDouble i rn rd)
    (ldrdWith s i u rn rd (s.x rm)))

/-- STRD, immediate offset (R287, R280, R281). -/
def execStrdImm (c : Cond) (i : Index) (u : Bool) (rn rd : RegNo) (off : BitVec 8) (s : State) : Out :=
  s.ifPasses c (s.unlessUnpredictable (unpredictableDouble i rn rd)
    (strdWith s i u rn rd (off.setWidth 32)))

/-- STRD, register offset (R287, R280, R281). -/
def execStrdReg (c : Cond) (i : Index) (u : Bool) (rn rd rm : RegNo) (s : State) : Out :=
  s.ifPasses c (s.unlessUnpredictable (unpredictableMiscReg i rn rm || unpredictableDouble i rn rd)
    (strdWith s i u rn rd (s.x rm)))

end Sys2Proof.Machine
end

