-- ==== Sys2Proof/Machine/LoadStoreMultiple.lean ====
section
/-! DEFINITION. LDM and STM, addressing mode 4 (spec 44_load_store_multiple). -/

namespace Sys2Proof.Machine

/-- The words of the slots in order, none if one fails (R311, R313, R318). -/
def State.loadBlock (s : State) (md : BlockMode) (rn : RegNo) (list : BitVec 16) : Option (List Word) :=
  s.loadMany (blockSlots md (s.x rn) list)

/-- The last loaded value, which is R15's where R15 is in the list (R311, R313). -/
def lastLoaded (vals : List Word) : Word := vals.getLastD 0#32

/-- LDM(1), load multiple (R313). -/
def execLdm1 (c : Cond) (md : BlockMode) (w : Bool) (rn : RegNo) (list : BitVec 16) (s : State) : Out :=
  s.ifPasses c (s.unlessUnpredictable (unpredictableBlock rn list || unpredictableLdmBase w rn list)
    (s.orAbort (s.loadBlock md rn list) fun vals =>
      let t := (writeLoaded State.setX s ((regsOf list).zip vals)).blockWriteBack w rn (blockNewBase md (s.x rn) list)
      if inList list 15#4 then t.branchToggle (lastLoaded vals) else t))

/-- LDM(2), load into the User-mode registers (R314): privileged, U29 in USR and SYS, U30 with W = 1. -/
def execLdm2 (c : Cond) (md : BlockMode) (w : Bool) (rn : RegNo) (list : BitVec 16) (s : State) : Out :=
  s.ifPasses c (s.unlessUnpredictable (unpredictableBlock rn list || s.inUsrOrSys || w)
    (s.orAbort (s.loadBlock md rn list) fun vals => writeLoaded State.setXUsr s ((regsOf list).zip vals)))

/-- LDM(3), load and return from exception (R315): the registers and the base in the bank of the mode before the
restore, then CPSR <- SPSR, then T toggled and pc written. U29 in USR and SYS; U31, after the loads, where the SPSR
holds an illegal mode. -/
def execLdm3 (c : Cond) (md : BlockMode) (w : Bool) (rn : RegNo) (list : BitVec 16) (s : State) : Out :=
  s.ifPasses c (s.unlessUnpredictable (unpredictableBlock rn list || s.inUsrOrSys || unpredictableLdmBase w rn list)
    (match s.loadBlock md rn list, s.spsr? with
    | none, _ => .next s.raiseDataAbort
    | some _, none => .next s
    | some vals, some saved =>
      s.unlessUnpredictable (!legalMode saved)
        (let t := (writeLoaded State.setX s ((regsOf list).zip vals)).blockWriteBack w rn (blockNewBase md (s.x rn) list)
        .next ((t.returnFrom saved (lastLoaded vals)).branchToggle (lastLoaded vals)))))

/-- The stores of a block, or DataAbort with the earlier slots written (R316, R318). -/
def State.storeBlock (s : State) (md : BlockMode) (rn : RegNo) (list : BitVec 16) (read : RegNo → Word)
    (k : State → State) : Out :=
  match s.storeMany ((blockSlots md (s.x rn) list).zip ((regsOf list).map read)) with
  | (t, true) => .next (k t)
  | (t, false) => .next t.raiseDataAbort

/-- STM(1), store multiple (R316): R15 stores `ia + 8`, and the lowest register of the list stores before the base is
written back. -/
def execStm1 (c : Cond) (md : BlockMode) (w : Bool) (rn : RegNo) (list : BitVec 16) (s : State) : Out :=
  s.ifPasses c (s.unlessUnpredictable (unpredictableBlock rn list || unpredictableStmBase w rn list)
    (s.storeBlock md rn list s.x fun t => t.blockWriteBack w rn (blockNewBase md (s.x rn) list)))

/-- STM(2), store the User-mode registers (R317): privileged, U29 in USR and SYS, U30 with W = 1. -/
def execStm2 (c : Cond) (md : BlockMode) (w : Bool) (rn : RegNo) (list : BitVec 16) (s : State) : Out :=
  s.ifPasses c (s.unlessUnpredictable (unpredictableBlock rn list || s.inUsrOrSys || w)
    (s.storeBlock md rn list s.xUsr fun t => t))

end Sys2Proof.Machine
end

