-- ==== Sys2Proof/Machine/StatusReg.lean ====
section
/-! DEFINITION. MRS and MSR (spec 45_branch_status_swi R342–R348). -/

namespace Sys2Proof.Machine

/-- MRS from the CPSR (R342); Rd = 15 is U3. -/
def execMrsCpsr (c : Cond) (rd : RegNo) (s : State) : Out :=
  s.ifPasses c (s.unlessUnpredictable (rd == 15#4) (.next (s.setX rd s.cpsr)))

/-- MRS from the SPSR (R342); Rd = 15 is U3, and a mode with no SPSR is U4. -/
def execMrsSpsr (c : Cond) (rd : RegNo) (s : State) : Out :=
  s.ifPasses c (s.unlessUnpredictable (rd == 15#4)
    (match s.spsr? with
    | none => .next s
    | some p => .next (s.setX rd p)))

/-- The bytes that the field mask selects (R343). -/
def byteMask (m : BitVec 4) : Word :=
  (if m.getLsbD 0 then 0x000000FF#32 else 0#32) ||| (if m.getLsbD 1 then 0x0000FF00#32 else 0#32) |||
    (if m.getLsbD 2 then 0x00FF0000#32 else 0#32) ||| (if m.getLsbD 3 then 0xFF000000#32 else 0#32)

/-- UserMask (R344). -/
def userMask : Word := 0xF0000000#32
/-- PrivMask (R344). -/
def privMask : Word := 0x000000DF#32
/-- StateMask (R344). -/
def stateMask : Word := 0x00000020#32

/-- `(target AND NOT mask) OR (operand AND mask)` (R343). -/
def maskedWrite (target operand mask : Word) : Word := (target &&& ~~~mask) ||| (operand &&& mask)

/-- U7 and U8: in a privileged mode with the control field selected, the operand has T = 1 or an illegal mode (R345). -/
def State.unpredictableMsr (s : State) (m : BitVec 4) (operand : Word) : Bool :=
  s.mode.privileged && m.getLsbD 0 && (thumb operand || !legalMode operand)

/-- The bits MSR may write in the CPSR in a mode (R345). -/
def cpsrWritable (m : Mode) : Word := if m.privileged then userMask ||| privMask else userMask

/-- MSR to the CPSR once the operand is known (R345). -/
def msrCpsr (s : State) (m : BitVec 4) (operand : Word) : Out :=
  s.unlessUnpredictable (s.unpredictableMsr m operand)
    (.next (s.setCpsr (maskedWrite s.cpsr operand (byteMask m &&& cpsrWritable s.mode))))

/-- MSR to the SPSR once the operand is known (R346); a mode with no SPSR is U6. -/
def msrSpsr (s : State) (m : BitVec 4) (operand : Word) : Out :=
  match s.spsr? with
  | none => .next s
  | some p => .next (s.setSpsr s.mode (maskedWrite p operand (byteMask m &&& (userMask ||| privMask ||| stateMask))))

/-- MSR CPSR, register (R345, R348); Rm = 15 is U5. -/
def execMsrCpsrReg (c : Cond) (m : BitVec 4) (rm : RegNo) (s : State) : Out :=
  s.ifPasses c (s.unlessUnpredictable (rm == 15#4) (msrCpsr s m (s.x rm)))

/-- MSR SPSR, register (R346, R348); Rm = 15 is U5. -/
def execMsrSpsrReg (c : Cond) (m : BitVec 4) (rm : RegNo) (s : State) : Out :=
  s.ifPasses c (s.unlessUnpredictable (rm == 15#4) (msrSpsr s m (s.x rm)))

/-- MSR CPSR, immediate (R345, R347). -/
def execMsrCpsrImm (c : Cond) (m : BitVec 4) (rot : BitVec 4) (imm : BitVec 8) (s : State) : Out :=
  s.ifPasses c (msrCpsr s m (rotatedImm rot imm))

/-- MSR SPSR, immediate (R346, R347). -/
def execMsrSpsrImm (c : Cond) (m : BitVec 4) (rot : BitVec 4) (imm : BitVec 8) (s : State) : Out :=
  s.ifPasses c (msrSpsr s m (rotatedImm rot imm))

end Sys2Proof.Machine
end

