-- ==== Sys2Proof/Machine/System.lean ====
section
/-! DEFINITION. SWI and the halt sentinel (R349, R350), and the encodings that raise UndefinedInstruction: the coprocessor
stubs (R351–R353), the undefined spaces (R354) and the cond = 0b1111 space (R174, R393). -/

namespace Sys2Proof.Machine

/-- SWI (R349): takes SoftwareInterrupt. The comment field has no effect on the core. -/
def execSwi (c : Cond) (_imm : BitVec 24) (s : State) : Out := s.ifPasses c (.next s.raiseSwi)

/-- The halt sentinel (R181, R350): the step returns Halt and no exception is entered. -/
def execSwiHalt (c : Cond) (s : State) : Out := s.ifPasses c (.next s.halt)

/-- LDC (R351). -/
def execLdc (c : Cond) (_p _u _n _w : Bool) (_rn : RegNo) (_crd _cp : BitVec 4) (_off : BitVec 8) (s : State) : Out :=
  s.ifPasses c (.next s.raiseUndefined)

/-- STC (R351). -/
def execStc (c : Cond) (_p _u _n _w : Bool) (_rn : RegNo) (_crd _cp : BitVec 4) (_off : BitVec 8) (s : State) : Out :=
  s.ifPasses c (.next s.raiseUndefined)

/-- CDP (R352). -/
def execCdp (c : Cond) (_op1 _crn _crd _cp : BitVec 4) (_op2 : BitVec 3) (_crm : BitVec 4) (s : State) : Out :=
  s.ifPasses c (.next s.raiseUndefined)

/-- MRC (R353). -/
def execMrc (c : Cond) (_op1 : BitVec 3) (_crn : BitVec 4) (_rd : RegNo) (_cp : BitVec 4) (_op2 : BitVec 3)
    (_crm : BitVec 4) (s : State) : Out :=
  s.ifPasses c (.next s.raiseUndefined)

/-- MCR (R353). -/
def execMcr (c : Cond) (_op1 : BitVec 3) (_crn : BitVec 4) (_rd : RegNo) (_cp : BitVec 4) (_op2 : BitVec 3)
    (_crm : BitVec 4) (s : State) : Out :=
  s.ifPasses c (.next s.raiseUndefined)

/-- The rest of the multiply/swap space (R354). -/
def execUndefMulswp (c : Cond) (_op : BitVec 5) (_mid : BitVec 12) (_low : BitVec 4) (s : State) : Out :=
  s.ifPasses c (.next s.raiseUndefined)

/-- The rest of the miscellaneous space (R354). -/
def execUndefMisc (c : Cond) (_op : BitVec 2) (_rest : BitVec 20) (s : State) : Out :=
  s.ifPasses c (.next s.raiseUndefined)

/-- Class 001 with w[24:23] = 10 and w[21:20] = 00 (R354). -/
def execUndefClass1Move (c : Cond) (_b22 : Bool) (_rest : BitVec 20) (s : State) : Out :=
  s.ifPasses c (.next s.raiseUndefined)

/-- Class 011 with w[4] = 1 (R354). -/
def execUndefClass3 (c : Cond) (_hi : BitVec 20) (_low : BitVec 4) (s : State) : Out :=
  s.ifPasses c (.next s.raiseUndefined)

/-- The cond = 0b1111 space (R174): no condition is tested. -/
def execUndefCond1111 (_rest : BitVec 28) (s : State) : Out := .next s.raiseUndefined

/-- BLX (immediate), under every UNROUTED_POLICY (R393). -/
def execBlxImm (_h : Bool) (_imm : BitVec 24) (s : State) : Out := .next s.raiseUndefined

end Sys2Proof.Machine
end

