-- ==== Sys2Proof/Machine/Unrouted.lean ====
section
/-! DEFINITION. The ARMv5T instructions that the source does not route (spec 46_unrouted_v5t): UNROUTED_POLICY decides once
the condition has passed (R380), and under `Architectural` they execute as R381–R392 say. -/

namespace Sys2Proof.Machine

/-- N and Z of a 32-bit product with S = 1; C and V kept (R381). -/
def State.mulFlags (s : State) (sf : Bool) (v : Word) : State := if sf then s.setCpsr (setNZ s.cpsr v) else s

/-- A 64-bit product: RdLo, then RdHi, then N and Z with S = 1 (R383–R386). -/
def State.writeLong (s : State) (sf : Bool) (rdHi rdLo : RegNo) (p : BitVec 64) : State :=
  let t := (s.setX rdLo (p.extractLsb' 0 32)).setX rdHi (p.extractLsb' 32 32)
  if sf then t.setCpsr (setNZLong t.cpsr p) else t

/-- U33 (R383). -/
def unpredictableLong (rdHi rdLo rs rm : RegNo) : Bool :=
  anyPc [rdHi, rdLo, rm, rs] || rdHi == rdLo || rdHi == rm || rdLo == rm

/-- U34 (R387). -/
def unpredictableSwp (rn rd rm : RegNo) : Bool := anyPc [rn, rd, rm] || rn == rm || rn == rd

/-- `uint(x[Rm]) × uint(x[Rs])` on 64 bits (R383). -/
def unsignedProduct (a b : Word) : BitVec 64 := BitVec.ofNat 64 (a.toNat * b.toNat)

/-- `sint(x[Rm]) × sint(x[Rs])` on 64 bits (R385). -/
def signedProduct (a b : Word) : BitVec 64 := BitVec.ofInt 64 (a.toInt * b.toInt)

/-- `uint(x[RdHi]) × 2^32 + uint(x[RdLo])` (R384). -/
def State.accumulator (s : State) (rdHi rdLo : RegNo) : BitVec 64 :=
  BitVec.ofNat 64 ((s.x rdHi).toNat * 2 ^ 32 + (s.x rdLo).toNat)

/-- MUL (R381). -/
def execMul (c : Cond) (sf : Bool) (rd rs rm : RegNo) (s : State) : Out :=
  s.ifPasses c (s.unrouted (s.unlessUnpredictable (anyPc [rd, rm, rs] || rd == rm)
    (let v := BitVec.ofNat 32 ((s.x rm).toNat * (s.x rs).toNat)
    .next ((s.setX rd v).mulFlags sf v))))

/-- MLA (R382). -/
def execMla (c : Cond) (sf : Bool) (rd rn rs rm : RegNo) (s : State) : Out :=
  s.ifPasses c (s.unrouted (s.unlessUnpredictable (anyPc [rd, rm, rs, rn] || rd == rm)
    (let v := BitVec.ofNat 32 ((s.x rm).toNat * (s.x rs).toNat + (s.x rn).toNat)
    .next ((s.setX rd v).mulFlags sf v))))

/-- UMULL (R383). -/
def execUmull (c : Cond) (sf : Bool) (rdHi rdLo rs rm : RegNo) (s : State) : Out :=
  s.ifPasses c (s.unrouted (s.unlessUnpredictable (unpredictableLong rdHi rdLo rs rm)
    (.next (s.writeLong sf rdHi rdLo (unsignedProduct (s.x rm) (s.x rs))))))

/-- UMLAL (R384). -/
def execUmlal (c : Cond) (sf : Bool) (rdHi rdLo rs rm : RegNo) (s : State) : Out :=
  s.ifPasses c (s.unrouted (s.unlessUnpredictable (unpredictableLong rdHi rdLo rs rm)
    (.next (s.writeLong sf rdHi rdLo (unsignedProduct (s.x rm) (s.x rs) + s.accumulator rdHi rdLo)))))

/-- SMULL (R385). -/
def execSmull (c : Cond) (sf : Bool) (rdHi rdLo rs rm : RegNo) (s : State) : Out :=
  s.ifPasses c (s.unrouted (s.unlessUnpredictable (unpredictableLong rdHi rdLo rs rm)
    (.next (s.writeLong sf rdHi rdLo (signedProduct (s.x rm) (s.x rs))))))

/-- SMLAL (R386). -/
def execSmlal (c : Cond) (sf : Bool) (rdHi rdLo rs rm : RegNo) (s : State) : Out :=
  s.ifPasses c (s.unrouted (s.unlessUnpredictable (unpredictableLong rdHi rdLo rs rm)
    (.next (s.writeLong sf rdHi rdLo (signedProduct (s.x rm) (s.x rs) + s.accumulator rdHi rdLo)))))

/-- A swap: read, then write, then Rd; an access that fails raises DataAbort with nothing more done (R387, R388). -/
def State.swap (s : State) (rd : RegNo) (read : Option Word) (written : Option State) : Out :=
  match read with
  | none => .next s.raiseDataAbort
  | some temp => s.orAbort written fun t => t.setX rd temp

/-- SWP (R387): the read is rotated as LDR's, the write goes to the aligned address. -/
def execSwp (c : Cond) (rn rd rm : RegNo) (s : State) : Out :=
  s.ifPasses c (s.unrouted (s.unlessUnpredictable (unpredictableSwp rn rd rm)
    (s.swap rd (s.loadRotated (s.x rn)) (s.storeAligned (s.x rn) (s.x rm)))))

/-- SWPB (R388). -/
def execSwpb (c : Cond) (rn rd rm : RegNo) (s : State) : Out :=
  s.ifPasses c (s.unrouted (s.unlessUnpredictable (unpredictableSwp rn rd rm)
    (s.swap rd (s.load .byte (s.x rn)) (s.store .byte (s.x rn) (s.x rm)))))

/-- BX (R389); Rm = 15 reads `ia + 8`. -/
def execBx (c : Cond) (rm : RegNo) (s : State) : Out :=
  s.ifPasses c (s.unrouted (.next (s.branchExchange (s.x rm))))

/-- BLX, register form (R390): Rm is read before LR is written; Rm = 15 is U36. -/
def execBlxReg (c : Cond) (rm : RegNo) (s : State) : Out :=
  s.ifPasses c (s.unrouted (s.unlessUnpredictable (rm == 15#4)
    (.next ((s.setX 14#4 (s.ia + 4#32)).branchExchange (s.x rm)))))

/-- CLZ (R391); Rd = 15 or Rm = 15 is U35. -/
def execClz (c : Cond) (rd rm : RegNo) (s : State) : Out :=
  s.ifPasses c (s.unrouted (s.unlessUnpredictable (anyPc [rd, rm])
    (.next (s.setX rd (countLeadingZeros (s.x rm))))))

/-- BKPT (R392): a PrefetchAbort with return address `ia`; a passing condition other than AL is U37. -/
def execBkpt (c : Cond) (_imm : BitVec 16) (s : State) : Out :=
  s.ifPasses c (s.unrouted (s.unlessUnpredictable (c != .al) (.next s.raiseBreakpoint)))

end Sys2Proof.Machine
end

