-- ==== Sys2Proof/Machine/Dispatch.lean ====
section
/-! DEFINITION. The dispatcher: one arm per instruction, each a call of its meaning (R177). -/

namespace Sys2Proof.Machine

def exec (i : Instr) (st : State) : Host.Outcome State Fault Refusal :=
  match i with
  | .blxImm h imm => Sys2Proof.Machine.execBlxImm h imm st
  | .undefCond1111 rest => Sys2Proof.Machine.execUndefCond1111 rest st
  | .mul c s rd rs rm => Sys2Proof.Machine.execMul c s rd rs rm st
  | .mla c s rd rn rs rm => Sys2Proof.Machine.execMla c s rd rn rs rm st
  | .umull c s rdHi rdLo rs rm => Sys2Proof.Machine.execUmull c s rdHi rdLo rs rm st
  | .umlal c s rdHi rdLo rs rm => Sys2Proof.Machine.execUmlal c s rdHi rdLo rs rm st
  | .smull c s rdHi rdLo rs rm => Sys2Proof.Machine.execSmull c s rdHi rdLo rs rm st
  | .smlal c s rdHi rdLo rs rm => Sys2Proof.Machine.execSmlal c s rdHi rdLo rs rm st
  | .swp c rn rd rm => Sys2Proof.Machine.execSwp c rn rd rm st
  | .swpb c rn rd rm => Sys2Proof.Machine.execSwpb c rn rd rm st
  | .undefMulswp c op mid low => Sys2Proof.Machine.execUndefMulswp c op mid low st
  | .ldrhImm c idx u rn rd off => Sys2Proof.Machine.execLdrhImm c idx u rn rd off st
  | .ldrhReg c idx u rn rd rm => Sys2Proof.Machine.execLdrhReg c idx u rn rd rm st
  | .strhImm c idx u rn rd off => Sys2Proof.Machine.execStrhImm c idx u rn rd off st
  | .strhReg c idx u rn rd rm => Sys2Proof.Machine.execStrhReg c idx u rn rd rm st
  | .ldrsbImm c idx u rn rd off => Sys2Proof.Machine.execLdrsbImm c idx u rn rd off st
  | .ldrsbReg c idx u rn rd rm => Sys2Proof.Machine.execLdrsbReg c idx u rn rd rm st
  | .ldrshImm c idx u rn rd off => Sys2Proof.Machine.execLdrshImm c idx u rn rd off st
  | .ldrshReg c idx u rn rd rm => Sys2Proof.Machine.execLdrshReg c idx u rn rd rm st
  | .ldrdImm c idx u rn rd off => Sys2Proof.Machine.execLdrdImm c idx u rn rd off st
  | .ldrdReg c idx u rn rd rm => Sys2Proof.Machine.execLdrdReg c idx u rn rd rm st
  | .strdImm c idx u rn rd off => Sys2Proof.Machine.execStrdImm c idx u rn rd off st
  | .strdReg c idx u rn rd rm => Sys2Proof.Machine.execStrdReg c idx u rn rd rm st
  | .mrsCpsr c rd => Sys2Proof.Machine.execMrsCpsr c rd st
  | .mrsSpsr c rd => Sys2Proof.Machine.execMrsSpsr c rd st
  | .msrCpsrReg c mask rm => Sys2Proof.Machine.execMsrCpsrReg c mask rm st
  | .msrSpsrReg c mask rm => Sys2Proof.Machine.execMsrSpsrReg c mask rm st
  | .bx c rm => Sys2Proof.Machine.execBx c rm st
  | .blxReg c rm => Sys2Proof.Machine.execBlxReg c rm st
  | .clz c rd rm => Sys2Proof.Machine.execClz c rd rm st
  | .bkpt c imm => Sys2Proof.Machine.execBkpt c imm st
  | .undefMisc c op rest => Sys2Proof.Machine.execUndefMisc c op rest st
  | .andImmShift c s rd rn k amt rm => Sys2Proof.Machine.execAndImmShift c s rd rn k amt rm st
  | .andRegShift c s rd rn k rs rm => Sys2Proof.Machine.execAndRegShift c s rd rn k rs rm st
  | .eorImmShift c s rd rn k amt rm => Sys2Proof.Machine.execEorImmShift c s rd rn k amt rm st
  | .eorRegShift c s rd rn k rs rm => Sys2Proof.Machine.execEorRegShift c s rd rn k rs rm st
  | .subImmShift c s rd rn k amt rm => Sys2Proof.Machine.execSubImmShift c s rd rn k amt rm st
  | .subRegShift c s rd rn k rs rm => Sys2Proof.Machine.execSubRegShift c s rd rn k rs rm st
  | .rsbImmShift c s rd rn k amt rm => Sys2Proof.Machine.execRsbImmShift c s rd rn k amt rm st
  | .rsbRegShift c s rd rn k rs rm => Sys2Proof.Machine.execRsbRegShift c s rd rn k rs rm st
  | .addImmShift c s rd rn k amt rm => Sys2Proof.Machine.execAddImmShift c s rd rn k amt rm st
  | .addRegShift c s rd rn k rs rm => Sys2Proof.Machine.execAddRegShift c s rd rn k rs rm st
  | .adcImmShift c s rd rn k amt rm => Sys2Proof.Machine.execAdcImmShift c s rd rn k amt rm st
  | .adcRegShift c s rd rn k rs rm => Sys2Proof.Machine.execAdcRegShift c s rd rn k rs rm st
  | .sbcImmShift c s rd rn k amt rm => Sys2Proof.Machine.execSbcImmShift c s rd rn k amt rm st
  | .sbcRegShift c s rd rn k rs rm => Sys2Proof.Machine.execSbcRegShift c s rd rn k rs rm st
  | .rscImmShift c s rd rn k amt rm => Sys2Proof.Machine.execRscImmShift c s rd rn k amt rm st
  | .rscRegShift c s rd rn k rs rm => Sys2Proof.Machine.execRscRegShift c s rd rn k rs rm st
  | .tstImmShift c rn k amt rm => Sys2Proof.Machine.execTstImmShift c rn k amt rm st
  | .tstRegShift c rn k rs rm => Sys2Proof.Machine.execTstRegShift c rn k rs rm st
  | .teqImmShift c rn k amt rm => Sys2Proof.Machine.execTeqImmShift c rn k amt rm st
  | .teqRegShift c rn k rs rm => Sys2Proof.Machine.execTeqRegShift c rn k rs rm st
  | .cmpImmShift c rn k amt rm => Sys2Proof.Machine.execCmpImmShift c rn k amt rm st
  | .cmpRegShift c rn k rs rm => Sys2Proof.Machine.execCmpRegShift c rn k rs rm st
  | .cmnImmShift c rn k amt rm => Sys2Proof.Machine.execCmnImmShift c rn k amt rm st
  | .cmnRegShift c rn k rs rm => Sys2Proof.Machine.execCmnRegShift c rn k rs rm st
  | .orrImmShift c s rd rn k amt rm => Sys2Proof.Machine.execOrrImmShift c s rd rn k amt rm st
  | .orrRegShift c s rd rn k rs rm => Sys2Proof.Machine.execOrrRegShift c s rd rn k rs rm st
  | .movImmShift c s rd k amt rm => Sys2Proof.Machine.execMovImmShift c s rd k amt rm st
  | .movRegShift c s rd k rs rm => Sys2Proof.Machine.execMovRegShift c s rd k rs rm st
  | .bicImmShift c s rd rn k amt rm => Sys2Proof.Machine.execBicImmShift c s rd rn k amt rm st
  | .bicRegShift c s rd rn k rs rm => Sys2Proof.Machine.execBicRegShift c s rd rn k rs rm st
  | .mvnImmShift c s rd k amt rm => Sys2Proof.Machine.execMvnImmShift c s rd k amt rm st
  | .mvnRegShift c s rd k rs rm => Sys2Proof.Machine.execMvnRegShift c s rd k rs rm st
  | .msrCpsrImm c mask rot imm => Sys2Proof.Machine.execMsrCpsrImm c mask rot imm st
  | .msrSpsrImm c mask rot imm => Sys2Proof.Machine.execMsrSpsrImm c mask rot imm st
  | .undefClass1Move c b22 rest => Sys2Proof.Machine.execUndefClass1Move c b22 rest st
  | .andImm c s rd rn rot imm => Sys2Proof.Machine.execAndImm c s rd rn rot imm st
  | .eorImm c s rd rn rot imm => Sys2Proof.Machine.execEorImm c s rd rn rot imm st
  | .subImm c s rd rn rot imm => Sys2Proof.Machine.execSubImm c s rd rn rot imm st
  | .rsbImm c s rd rn rot imm => Sys2Proof.Machine.execRsbImm c s rd rn rot imm st
  | .addImm c s rd rn rot imm => Sys2Proof.Machine.execAddImm c s rd rn rot imm st
  | .adcImm c s rd rn rot imm => Sys2Proof.Machine.execAdcImm c s rd rn rot imm st
  | .sbcImm c s rd rn rot imm => Sys2Proof.Machine.execSbcImm c s rd rn rot imm st
  | .rscImm c s rd rn rot imm => Sys2Proof.Machine.execRscImm c s rd rn rot imm st
  | .tstImm c rn rot imm => Sys2Proof.Machine.execTstImm c rn rot imm st
  | .teqImm c rn rot imm => Sys2Proof.Machine.execTeqImm c rn rot imm st
  | .cmpImm c rn rot imm => Sys2Proof.Machine.execCmpImm c rn rot imm st
  | .cmnImm c rn rot imm => Sys2Proof.Machine.execCmnImm c rn rot imm st
  | .orrImm c s rd rn rot imm => Sys2Proof.Machine.execOrrImm c s rd rn rot imm st
  | .movImm c s rd rot imm => Sys2Proof.Machine.execMovImm c s rd rot imm st
  | .bicImm c s rd rn rot imm => Sys2Proof.Machine.execBicImm c s rd rn rot imm st
  | .mvnImm c s rd rot imm => Sys2Proof.Machine.execMvnImm c s rd rot imm st
  | .undefClass3 c hi low => Sys2Proof.Machine.execUndefClass3 c hi low st
  | .ldrtImm c u rn rd off => Sys2Proof.Machine.execLdrtImm c u rn rd off st
  | .ldrbtImm c u rn rd off => Sys2Proof.Machine.execLdrbtImm c u rn rd off st
  | .strtImm c u rn rd off => Sys2Proof.Machine.execStrtImm c u rn rd off st
  | .strbtImm c u rn rd off => Sys2Proof.Machine.execStrbtImm c u rn rd off st
  | .ldrImm c idx u rn rd off => Sys2Proof.Machine.execLdrImm c idx u rn rd off st
  | .ldrbImm c idx u rn rd off => Sys2Proof.Machine.execLdrbImm c idx u rn rd off st
  | .strImm c idx u rn rd off => Sys2Proof.Machine.execStrImm c idx u rn rd off st
  | .strbImm c idx u rn rd off => Sys2Proof.Machine.execStrbImm c idx u rn rd off st
  | .ldrtReg c u rn rd k amt rm => Sys2Proof.Machine.execLdrtReg c u rn rd k amt rm st
  | .ldrbtReg c u rn rd k amt rm => Sys2Proof.Machine.execLdrbtReg c u rn rd k amt rm st
  | .strtReg c u rn rd k amt rm => Sys2Proof.Machine.execStrtReg c u rn rd k amt rm st
  | .strbtReg c u rn rd k amt rm => Sys2Proof.Machine.execStrbtReg c u rn rd k amt rm st
  | .ldrReg c idx u rn rd k amt rm => Sys2Proof.Machine.execLdrReg c idx u rn rd k amt rm st
  | .ldrbReg c idx u rn rd k amt rm => Sys2Proof.Machine.execLdrbReg c idx u rn rd k amt rm st
  | .strReg c idx u rn rd k amt rm => Sys2Proof.Machine.execStrReg c idx u rn rd k amt rm st
  | .strbReg c idx u rn rd k amt rm => Sys2Proof.Machine.execStrbReg c idx u rn rd k amt rm st
  | .ldm1 c md w rn list => Sys2Proof.Machine.execLdm1 c md w rn list st
  | .ldm2 c md w rn list => Sys2Proof.Machine.execLdm2 c md w rn list st
  | .ldm3 c md w rn list => Sys2Proof.Machine.execLdm3 c md w rn list st
  | .stm1 c md w rn list => Sys2Proof.Machine.execStm1 c md w rn list st
  | .stm2 c md w rn list => Sys2Proof.Machine.execStm2 c md w rn list st
  | .b c imm => Sys2Proof.Machine.execB c imm st
  | .bl c imm => Sys2Proof.Machine.execBl c imm st
  | .ldc c p u n w rn crd cp off => Sys2Proof.Machine.execLdc c p u n w rn crd cp off st
  | .stc c p u n w rn crd cp off => Sys2Proof.Machine.execStc c p u n w rn crd cp off st
  | .swiHalt c => Sys2Proof.Machine.execSwiHalt c st
  | .swi c imm => Sys2Proof.Machine.execSwi c imm st
  | .cdp c op1 crn crd cp op2 crm => Sys2Proof.Machine.execCdp c op1 crn crd cp op2 crm st
  | .mrc c op1 crn rd cp op2 crm => Sys2Proof.Machine.execMrc c op1 crn rd cp op2 crm st
  | .mcr c op1 crn rd cp op2 crm => Sys2Proof.Machine.execMcr c op1 crn rd cp op2 crm st

end Sys2Proof.Machine
end

