-- ==== Sys2Proof/Machine/HostAccess.lean ====
section
/-! DEFINITION. The core-to-host surface besides `step()`: `raise(E)` (R183, R428), the register and status-register
accessors (R184, R51) and the memory interface (R92). No instruction calls these. -/

namespace Sys2Proof.Machine

/-- The causes the host may raise (R183). -/
inductive HostCause
  | reset | interrupt | fastInterrupt
deriving DecidableEq, Repr

def HostCause.cause : HostCause → Cause
  | .reset => .reset | .interrupt => .interrupt | .fastInterrupt => .fastInterrupt

/-- What `raise(E)` returns (R183). -/
inductive RaiseResult
  | taken (code : Nat)
  | suppressed
deriving DecidableEq, Repr

/-- The disable bit of the CPSR that gates a host-raised cause is set (R423). -/
def State.masked (s : State) : HostCause → Bool
  | .reset => false
  | .interrupt => irqDisable s.cpsr
  | .fastInterrupt => fiqDisable s.cpsr

/-- `raise(E)` between steps (R428): suppressed with no state change, or entered with the pc as return address. -/
def State.raise (s : State) (e : HostCause) : RaiseResult × State :=
  if s.masked e then (.suppressed, s) else (.taken e.cause.code, s.enter e.cause s.pc)

/-- The priority order of the causes, 1 the highest (R427). UndefinedInstruction and SoftwareInterrupt exclude each other
and share a place. -/
def Cause.rank : Cause → Nat
  | .reset => 1 | .dataAbort => 2 | .fastInterrupt => 3 | .interrupt => 4 | .prefetchAbort => 5
  | .undefinedInstruction => 6 | .softwareInterrupt => 6

/-- The place of a host-raised cause in that order. -/
def HostCause.rank (e : HostCause) : Nat := e.cause.rank

/-- Insertion by rank. -/
def insertByRank (e : HostCause) : List HostCause → List HostCause
  | [] => [e]
  | d :: ds => if e.rank ≤ d.rank then e :: d :: ds else d :: insertByRank e ds

/-- The causes in the order of R427, highest first. -/
def byPriority : List HostCause → List HostCause
  | [] => []
  | e :: es => insertByRank e (byPriority es)

/-- Several causes ready at one boundary, raised in the order of R427. -/
def State.raiseAll (s : State) (es : List HostCause) : State :=
  (byPriority es).foldl (fun t e => (t.raise e).2) s

/-- `mode()` (R184): none where CPSR.M is illegal. -/
def State.hostMode (s : State) : Option Mode := s.mode?

/-- `read(i)` (R184): register i of the current mode; for i = 15 the raw R15 cell. None where no legal mode routes the
access (R171). -/
def State.hostRead (s : State) (i : RegNo) : Option Word := s.mode?.map fun m => s.getCell (slot m i)

/-- `write(i, v)` (R184). -/
def State.hostWrite (s : State) (i : RegNo) (v : Word) : Option State := s.mode?.map fun m => s.setCell (slot m i) v

/-- `readUser(i)` (R45, R184). -/
def State.hostReadUser (s : State) (i : RegNo) : Word := s.getCell (slot .usr i)

/-- `writeUser(i, v)` (R45, R184). -/
def State.hostWriteUser (s : State) (i : RegNo) (v : Word) : State := s.setCell (slot .usr i) v

/-- `readCPSR()` (R184). -/
def State.hostReadCpsr (s : State) : Psr := s.cpsr

/-- `writeCPSR(v)` (R184): the whole word. -/
def State.hostWriteCpsr (s : State) (v : Psr) : State := s.setCpsr v

/-- `readSPSR()` (R51): the pair (0, failure) where the current mode has no SPSR. -/
def State.hostReadSpsr (s : State) : Psr × Bool :=
  match s.spsr? with
  | some p => (p, true)
  | none => (0#32, false)

/-- `writeSPSR(v)` (R51): nothing changes, and failure, where the current mode has no SPSR. -/
def State.hostWriteSpsr (s : State) (v : Psr) : State × Bool :=
  match s.spsr? with
  | some _ => (s.setSpsr s.mode v, true)
  | none => (s, false)

/-- `readByte`, `readHalf`, `readWord` (R92): the value and ok; a failed read returns no usable value. -/
def State.readByte (s : State) (a : Word) : Option Word := s.load .byte a
def State.readHalf (s : State) (a : Word) : Option Word := s.load .half a
def State.readWord (s : State) (a : Word) : Option Word := s.load .word a

/-- `writeByte`, `writeHalf`, `writeWord` (R92): the state and ok; a failed write changes no byte. -/
def State.writeByte (s : State) (a v : Word) : State × Bool := ((s.store .byte a v).getD s, s.inMemory .byte a)
def State.writeHalf (s : State) (a v : Word) : State × Bool := ((s.store .half a v).getD s, s.inMemory .half a)
def State.writeWord (s : State) (a v : Word) : State × Bool := ((s.store .word a v).getD s, s.inMemory .word a)

/-- The core as the host creates it, before Reset is raised: INITIAL_STATE and the parameters (R470, R472). -/
def State.created (regs : RegBank) (cpsr : Psr) (spsrs : SpsrBank) (params : Params) : State :=
  { regs := regs, cpsr := cpsr, spsrs := spsrs, mem := [], params := params, result := .normal }

end Sys2Proof.Machine
end

