-- ==== Sys2Proof/Machine/Step.lean ====
section
/-! DEFINITION. One step of the machine (R170), and placing an instruction where it fetches. -/

namespace Sys2Proof.Machine

/-- `step()` (R170): the three checks of R171 in their order, the fetch (R172), `pc <- ia + 4` (R173), and the decoded
instruction, whose meaning tests the condition (R174, R175). -/
def step (s : State) : Host.Outcome State Fault Refusal :=
  match s.mode? with
  | none => .refused .invalidMode
  | some _ =>
    if thumb s.cpsr then .refused .thumbState
    else if !s.pcAligned then .refused .misalignedFetch
    else
      match s.fetch with
      | none => .next s.fetchAbort
      | some w => exec (decodeWord w) s.advance

/-- The state with the instruction word `w` stored at the pc, in the memory's byte order: a host write (R472). Where the
word at the pc lies outside memory no instruction can be fetched, and the state is unchanged. -/
def State.withFetchWord (s : State) (nbits w : Nat) : State :=
  (s.store .word s.pc (BitVec.ofNat 32 (w % 2 ^ nbits))).getD s

end Sys2Proof.Machine
end

