-- ==== Sys2Proof/Safety.lean ====
section
/-! DEFINITION. The words the claims use: a completed instruction, a runnable state, the invariant, what a frame keeps, and
the operands of an instruction family read off its syntax. Nothing here is called by the machine. -/

namespace Sys2Proof.Machine

/-! ## Outcomes and states -/

/-- A state whose next step passes the three checks of R171. -/
def State.runnable (s : State) : Bool := s.mode?.isSome && !thumb s.cpsr && s.pcAligned

/-- The invariant of every step: MEM_SIZE is a legal size (R91), memory is in canonical form and inside the array (R91),
and CPSR.M holds a legal mode (R49). -/
def State.inv (s : State) : Bool :=
  s.params.wf && s.mem.wf && s.mem.within s.params.memSize && legalMode s.cpsr

/-- A safe outcome: the machine goes on. -/
def goesOn (o : Out) : Prop := ∃ t, o = .next t

/-! ## Frames -/

/-- Every register cell but the listed ones is unchanged. -/
def sameCellsBut (cs : List RegCell) (s t : State) : Prop := ∀ d, d ∉ cs → t.getCell d = s.getCell d

/-- Memory is unchanged: every byte reads as before, and the list is the same. -/
def sameMemory (s t : State) : Prop := (∀ a, t.byteAt a = s.byteAt a) ∧ t.mem = s.mem

/-- Every byte of memory outside the `n` bytes at `a` reads as before. -/
def sameMemoryBut (a : Word) (n : Nat) (s t : State) : Prop :=
  ∀ b, b < a.toNat ∨ a.toNat + n ≤ b → t.byteAt b = s.byteAt b

/-- The CPSR, the five SPSRs, the parameters and the result are unchanged. -/
def sameStatus (s t : State) : Prop :=
  t.cpsr = s.cpsr ∧ t.spsrs = s.spsrs ∧ t.params = s.params ∧ t.result = s.result

/-- All but the CPSR of `sameStatus`. -/
def sameStatusButCpsr (s t : State) : Prop := t.spsrs = s.spsrs ∧ t.params = s.params ∧ t.result = s.result

/-- The PSR `q` is `p` but for N, Z, C and V, which are the ones given. -/
def flagsAre (p q : Psr) (n z c v : Bool) : Prop :=
  negative q = n ∧ zero q = z ∧ carry q = c ∧ overflow q = v ∧ ∀ j, j < 28 → bit q j = bit p j

/-- The PSR `q` is `p` but for T, which is the one given. -/
def thumbIs (p q : Psr) (b : Bool) : Prop := thumb q = b ∧ ∀ j, j ≠ 5 → bit q j = bit p j

/-- All reserved bits [27:8], of the CPSR and of the five SPSRs, hold `k` (R55). -/
def reservedAre (k : BitVec 20) (s : State) : Prop :=
  reservedField s.cpsr = k ∧ reservedField s.spsrs.fiq = k ∧ reservedField s.spsrs.irq = k ∧
    reservedField s.spsrs.svc = k ∧ reservedField s.spsrs.abt = k ∧ reservedField s.spsrs.und = k

/-- The cells that R0 … R15 name in a mode (R41). -/
def bankOf (m : Mode) : List RegCell := (List.range 16).map fun i => slot m (BitVec.ofNat 4 i)

/-- The banked cells that USR mode does not see (R41). -/
def privilegedCells : List RegCell :=
  [.r8Fiq, .r9Fiq, .r10Fiq, .r11Fiq, .r12Fiq, .r13Fiq, .r14Fiq, .r13Irq, .r14Irq, .r13Svc, .r14Svc, .r13Abt, .r14Abt,
    .r13Und, .r14Und]

/-- The exception entry of R422, field by field: `t` is what entering `e` with return address `ret` leaves of `s`. -/
def entered (e : Cause) (ret : Word) (s t : State) : Prop :=
  t.pc = e.vector ∧ t.getCell (slot e.target 14#4) = ret ∧ sameCellsBut [.r15, slot e.target 14#4] s t ∧
    t.spsrs = (if e.savesSpsr then s.spsrs.set e.target s.cpsr else s.spsrs) ∧
    t.mode? = some e.target ∧ thumb t.cpsr = false ∧ irqDisable t.cpsr = true ∧
    fiqDisable t.cpsr = (e.setsF || fiqDisable s.cpsr) ∧ (∀ j, 8 ≤ j → bit t.cpsr j = bit s.cpsr j) ∧
    sameMemory s t ∧ t.params = s.params ∧ t.result = .exception e

/-- The return address a synchronous cause takes (R421): the faulting instruction for the aborts, the next one
otherwise. -/
def syncReturn (e : Cause) (s : State) : Word :=
  match e with
  | .prefetchAbort => s.ia
  | .dataAbort => s.ia
  | .reset => s.ia + 4#32
  | .undefinedInstruction => s.ia + 4#32
  | .softwareInterrupt => s.ia + 4#32
  | .interrupt => s.ia + 4#32
  | .fastInterrupt => s.ia + 4#32

/-! ## The operands of the families, read off the syntax -/

/-- The three shifter-operand forms (R200). -/
inductive DpOperand
  | imm (rot : BitVec 4) (imm : BitVec 8)
  | immShift (k : ShiftKind) (amt : BitVec 5) (rm : RegNo)
  | regShift (k : ShiftKind) (rs rm : RegNo)
deriving DecidableEq, Repr

/-- A data-processing instruction: condition, operation, S, Rd, Rn and operand. S is implied by a comparison, whose Rd is
SBZ; Rn of MOV and MVN is SBZ (R123, R139). -/
structure DpView where
  cond : Cond
  op : DpOp
  sets : Bool
  rd : RegNo
  rn : RegNo
  operand : DpOperand
deriving DecidableEq, Repr

/-- The shifter operand and its carry in a state (R200). -/
def DpView.shifted (v : DpView) (s : State) : Shifted :=
  match v.operand with
  | .imm rot imm => s.opImm rot imm
  | .immShift k amt rm => s.opImmShift k amt rm
  | .regShift k rs rm => s.opRegShift k rs rm

/-- U1 (R204): the register-shift form with R15 in a register field the row has. -/
def DpView.unpredictable (v : DpView) : Bool :=
  match v.operand with
  | .regShift _ rs rm => anyPc [v.rd, v.rn, rm, rs]
  | .imm _ _ => false
  | .immShift _ _ _ => false

/-- The comparisons (R206). -/
def dpCompares : DpOp → Bool
  | .tst => true | .teq => true | .cmp => true | .cmn => true
  | .and => false | .eor => false | .sub => false | .rsb => false | .add => false | .adc => false | .sbc => false
  | .rsc => false | .orr => false | .mov => false | .bic => false | .mvn => false

/-- The result of an operation on the first operand `a`, the shifter operand `b` and the carry `c`, as R208–R223 say it
in words (AND, exclusive OR, a − b, b − a, a + b, …). -/
def dpResult (op : DpOp) (a b : Word) (c : Bool) : Word :=
  let borrow : Word := if c then 0#32 else 1#32
  let carryIn : Word := if c then 1#32 else 0#32
  match op with
  | .and => a &&& b | .tst => a &&& b
  | .eor => a ^^^ b | .teq => a ^^^ b
  | .sub => a - b | .cmp => a - b
  | .rsb => b - a
  | .add => a + b | .cmn => a + b
  | .adc => a + b + carryIn
  | .sbc => a - b - borrow
  | .rsc => b - a - borrow
  | .orr => a ||| b
  | .mov => b
  | .bic => a &&& ~~~b
  | .mvn => ~~~b

/-- The C flag of an operation: the shifter's carry for a logical one (R207); the unsigned carry of an addition, and for
a subtraction NOT borrow, that is uint(a) ≥ uint(b) + (1 − C) (R205). -/
def dpCarry (op : DpOp) (a b : Word) (shifterCarry c : Bool) : Bool :=
  let borrow := if c then 0 else 1
  match op with
  | .and => shifterCarry | .tst => shifterCarry | .eor => shifterCarry | .teq => shifterCarry
  | .orr => shifterCarry | .mov => shifterCarry | .bic => shifterCarry | .mvn => shifterCarry
  | .add => decide (2 ^ 32 ≤ a.toNat + b.toNat) | .cmn => decide (2 ^ 32 ≤ a.toNat + b.toNat)
  | .adc => decide (2 ^ 32 ≤ a.toNat + b.toNat + c.toNat)
  | .sub => decide (b.toNat ≤ a.toNat) | .cmp => decide (b.toNat ≤ a.toNat)
  | .sbc => decide (b.toNat + borrow ≤ a.toNat)
  | .rsb => decide (a.toNat ≤ b.toNat)
  | .rsc => decide (a.toNat + borrow ≤ b.toNat)

/-- A signed value does not fit in 32 bits. -/
def overflows (x : Int) : Bool := decide (x < -2 ^ 31) || decide (2 ^ 31 ≤ x)

/-- The V flag of an operation: unchanged by a logical one (R207), the signed overflow of an arithmetic one (R205). -/
def dpOverflow (op : DpOp) (a b : Word) (c v : Bool) : Bool :=
  let borrow : Int := if c then 0 else 1
  match op with
  | .and => v | .tst => v | .eor => v | .teq => v | .orr => v | .mov => v | .bic => v | .mvn => v
  | .add => overflows (a.toInt + b.toInt) | .cmn => overflows (a.toInt + b.toInt)
  | .adc => overflows (a.toInt + b.toInt + (1 - borrow))
  | .sub => overflows (a.toInt - b.toInt) | .cmp => overflows (a.toInt - b.toInt)
  | .sbc => overflows (a.toInt - b.toInt - borrow)
  | .rsb => overflows (b.toInt - a.toInt)
  | .rsc => overflows (b.toInt - a.toInt - borrow)

/-- The result of a data-processing instruction in a state. -/
def DpView.result (v : DpView) (s : State) : Word :=
  dpResult v.op (s.x v.rn) (v.shifted s).value (carry s.cpsr)

/-- C_out of a data-processing instruction in a state. -/
def DpView.carryOut (v : DpView) (s : State) : Bool :=
  dpCarry v.op (s.x v.rn) (v.shifted s).value (v.shifted s).carryOut (carry s.cpsr)

/-- V_out of a data-processing instruction in a state. -/
def DpView.overflowOut (v : DpView) (s : State) : Bool :=
  dpOverflow v.op (s.x v.rn) (v.shifted s).value (carry s.cpsr) (overflow s.cpsr)

/-- The data-processing instruction that a row is. -/
def dpView : Instr → Option DpView
  | .andImm c sf rd rn rot imm => some ⟨c, .and, sf, rd, rn, (.imm rot imm)⟩
  | .andImmShift c sf rd rn k amt rm => some ⟨c, .and, sf, rd, rn, (.immShift k amt rm)⟩
  | .andRegShift c sf rd rn k rs rm => some ⟨c, .and, sf, rd, rn, (.regShift k rs rm)⟩
  | .eorImm c sf rd rn rot imm => some ⟨c, .eor, sf, rd, rn, (.imm rot imm)⟩
  | .eorImmShift c sf rd rn k amt rm => some ⟨c, .eor, sf, rd, rn, (.immShift k amt rm)⟩
  | .eorRegShift c sf rd rn k rs rm => some ⟨c, .eor, sf, rd, rn, (.regShift k rs rm)⟩
  | .subImm c sf rd rn rot imm => some ⟨c, .sub, sf, rd, rn, (.imm rot imm)⟩
  | .subImmShift c sf rd rn k amt rm => some ⟨c, .sub, sf, rd, rn, (.immShift k amt rm)⟩
  | .subRegShift c sf rd rn k rs rm => some ⟨c, .sub, sf, rd, rn, (.regShift k rs rm)⟩
  | .rsbImm c sf rd rn rot imm => some ⟨c, .rsb, sf, rd, rn, (.imm rot imm)⟩
  | .rsbImmShift c sf rd rn k amt rm => some ⟨c, .rsb, sf, rd, rn, (.immShift k amt rm)⟩
  | .rsbRegShift c sf rd rn k rs rm => some ⟨c, .rsb, sf, rd, rn, (.regShift k rs rm)⟩
  | .addImm c sf rd rn rot imm => some ⟨c, .add, sf, rd, rn, (.imm rot imm)⟩
  | .addImmShift c sf rd rn k amt rm => some ⟨c, .add, sf, rd, rn, (.immShift k amt rm)⟩
  | .addRegShift c sf rd rn k rs rm => some ⟨c, .add, sf, rd, rn, (.regShift k rs rm)⟩
  | .adcImm c sf rd rn rot imm => some ⟨c, .adc, sf, rd, rn, (.imm rot imm)⟩
  | .adcImmShift c sf rd rn k amt rm => some ⟨c, .adc, sf, rd, rn, (.immShift k amt rm)⟩
  | .adcRegShift c sf rd rn k rs rm => some ⟨c, .adc, sf, rd, rn, (.regShift k rs rm)⟩
  | .sbcImm c sf rd rn rot imm => some ⟨c, .sbc, sf, rd, rn, (.imm rot imm)⟩
  | .sbcImmShift c sf rd rn k amt rm => some ⟨c, .sbc, sf, rd, rn, (.immShift k amt rm)⟩
  | .sbcRegShift c sf rd rn k rs rm => some ⟨c, .sbc, sf, rd, rn, (.regShift k rs rm)⟩
  | .rscImm c sf rd rn rot imm => some ⟨c, .rsc, sf, rd, rn, (.imm rot imm)⟩
  | .rscImmShift c sf rd rn k amt rm => some ⟨c, .rsc, sf, rd, rn, (.immShift k amt rm)⟩
  | .rscRegShift c sf rd rn k rs rm => some ⟨c, .rsc, sf, rd, rn, (.regShift k rs rm)⟩
  | .tstImm c rn rot imm => some ⟨c, .tst, true, 0#4, rn, (.imm rot imm)⟩
  | .tstImmShift c rn k amt rm => some ⟨c, .tst, true, 0#4, rn, (.immShift k amt rm)⟩
  | .tstRegShift c rn k rs rm => some ⟨c, .tst, true, 0#4, rn, (.regShift k rs rm)⟩
  | .teqImm c rn rot imm => some ⟨c, .teq, true, 0#4, rn, (.imm rot imm)⟩
  | .teqImmShift c rn k amt rm => some ⟨c, .teq, true, 0#4, rn, (.immShift k amt rm)⟩
  | .teqRegShift c rn k rs rm => some ⟨c, .teq, true, 0#4, rn, (.regShift k rs rm)⟩
  | .cmpImm c rn rot imm => some ⟨c, .cmp, true, 0#4, rn, (.imm rot imm)⟩
  | .cmpImmShift c rn k amt rm => some ⟨c, .cmp, true, 0#4, rn, (.immShift k amt rm)⟩
  | .cmpRegShift c rn k rs rm => some ⟨c, .cmp, true, 0#4, rn, (.regShift k rs rm)⟩
  | .cmnImm c rn rot imm => some ⟨c, .cmn, true, 0#4, rn, (.imm rot imm)⟩
  | .cmnImmShift c rn k amt rm => some ⟨c, .cmn, true, 0#4, rn, (.immShift k amt rm)⟩
  | .cmnRegShift c rn k rs rm => some ⟨c, .cmn, true, 0#4, rn, (.regShift k rs rm)⟩
  | .orrImm c sf rd rn rot imm => some ⟨c, .orr, sf, rd, rn, (.imm rot imm)⟩
  | .orrImmShift c sf rd rn k amt rm => some ⟨c, .orr, sf, rd, rn, (.immShift k amt rm)⟩
  | .orrRegShift c sf rd rn k rs rm => some ⟨c, .orr, sf, rd, rn, (.regShift k rs rm)⟩
  | .movImm c sf rd rot imm => some ⟨c, .mov, sf, rd, 0#4, (.imm rot imm)⟩
  | .movImmShift c sf rd k amt rm => some ⟨c, .mov, sf, rd, 0#4, (.immShift k amt rm)⟩
  | .movRegShift c sf rd k rs rm => some ⟨c, .mov, sf, rd, 0#4, (.regShift k rs rm)⟩
  | .bicImm c sf rd rn rot imm => some ⟨c, .bic, sf, rd, rn, (.imm rot imm)⟩
  | .bicImmShift c sf rd rn k amt rm => some ⟨c, .bic, sf, rd, rn, (.immShift k amt rm)⟩
  | .bicRegShift c sf rd rn k rs rm => some ⟨c, .bic, sf, rd, rn, (.regShift k rs rm)⟩
  | .mvnImm c sf rd rot imm => some ⟨c, .mvn, sf, rd, 0#4, (.imm rot imm)⟩
  | .mvnImmShift c sf rd k amt rm => some ⟨c, .mvn, sf, rd, 0#4, (.immShift k amt rm)⟩
  | .mvnRegShift c sf rd k rs rm => some ⟨c, .mvn, sf, rd, 0#4, (.regShift k rs rm)⟩
  | _ => none

/-- The two offset forms of mode 2 (R250). -/
inductive LsOffset
  | imm (off : BitVec 12)
  | reg (k : ShiftKind) (amt : BitVec 5) (rm : RegNo)
deriving DecidableEq, Repr

/-- A word or byte transfer: condition, L, B, index mode, U, Rn, Rd and offset (R128). -/
structure LsView where
  cond : Cond
  loads : Bool
  isByte : Bool
  idx : Index
  u : Bool
  rn : RegNo
  rd : RegNo
  offset : LsOffset
deriving DecidableEq, Repr

/-- The offset of mode 2 in a state (R250). -/
def LsView.offsetIn (v : LsView) (s : State) : Word :=
  match v.offset with
  | .imm off => off.setWidth 32
  | .reg k amt rm => s.scaledOffset k amt rm

/-- `newbase` (R251). -/
def LsView.newBaseIn (v : LsView) (s : State) : Word := newBase v.u (s.x v.rn) (v.offsetIn s)

/-- `addr` (R251). -/
def LsView.addrIn (v : LsView) (s : State) : Word := transferAddr v.idx (s.x v.rn) (v.newBaseIn s)

/-- The base is written back (R251). -/
def LsView.wb (v : LsView) : Bool := !v.idx.p || v.idx.w

/-- One of U9–U13 holds (R252). -/
def LsView.unpredictable (v : LsView) : Bool :=
  (match v.offset with
    | .imm _ => false
    | .reg _ _ rm => rm == 15#4 || (v.wb && rm == v.rn)) ||
  (v.wb && v.rn == 15#4) || (v.wb && v.rn == v.rd) || (v.isByte && v.rd == 15#4)

/-- The word or byte transfer that a row is. The T forms are (P, W) = (0, 1) (R251). -/
def lsView : Instr → Option LsView
  | .ldrImm c idx u rn rd off => some ⟨c, true, false, idx, u, rn, rd, .imm off⟩
  | .ldrReg c idx u rn rd k amt rm => some ⟨c, true, false, idx, u, rn, rd, .reg k amt rm⟩
  | .ldrtImm c u rn rd off => some ⟨c, true, false, .postW, u, rn, rd, .imm off⟩
  | .ldrtReg c u rn rd k amt rm => some ⟨c, true, false, .postW, u, rn, rd, .reg k amt rm⟩
  | .ldrbImm c idx u rn rd off => some ⟨c, true, true, idx, u, rn, rd, .imm off⟩
  | .ldrbReg c idx u rn rd k amt rm => some ⟨c, true, true, idx, u, rn, rd, .reg k amt rm⟩
  | .ldrbtImm c u rn rd off => some ⟨c, true, true, .postW, u, rn, rd, .imm off⟩
  | .ldrbtReg c u rn rd k amt rm => some ⟨c, true, true, .postW, u, rn, rd, .reg k amt rm⟩
  | .strImm c idx u rn rd off => some ⟨c, false, false, idx, u, rn, rd, .imm off⟩
  | .strReg c idx u rn rd k amt rm => some ⟨c, false, false, idx, u, rn, rd, .reg k amt rm⟩
  | .strtImm c u rn rd off => some ⟨c, false, false, .postW, u, rn, rd, .imm off⟩
  | .strtReg c u rn rd k amt rm => some ⟨c, false, false, .postW, u, rn, rd, .reg k amt rm⟩
  | .strbImm c idx u rn rd off => some ⟨c, false, true, idx, u, rn, rd, .imm off⟩
  | .strbReg c idx u rn rd k amt rm => some ⟨c, false, true, idx, u, rn, rd, .reg k amt rm⟩
  | .strbtImm c u rn rd off => some ⟨c, false, true, .postW, u, rn, rd, .imm off⟩
  | .strbtReg c u rn rd k amt rm => some ⟨c, false, true, .postW, u, rn, rd, .reg k amt rm⟩
  | _ => none

/-- The transfers of mode 3 (R129). -/
inductive MiscOp
  | ldrh | strh | ldrsb | ldrsh | ldrd | strd
deriving DecidableEq, Repr

/-- LDRD or STRD. -/
def MiscOp.double : MiscOp → Bool
  | .ldrd => true | .strd => true | .ldrh => false | .strh => false | .ldrsb => false | .ldrsh => false

/-- LDRH, STRH or LDRSH. -/
def MiscOp.half : MiscOp → Bool
  | .ldrh => true | .strh => true | .ldrsh => true | .ldrsb => false | .ldrd => false | .strd => false

/-- The width of one access of a transfer (R101). -/
def MiscOp.width : MiscOp → Width
  | .ldrh => .half | .strh => .half | .ldrsh => .half | .ldrsb => .byte | .ldrd => .word | .strd => .word

/-- The value a transfer of one register loads from the zero-extended bytes read (R101): sign-extended by LDRSB and
LDRSH. -/
def MiscOp.extended (o : MiscOp) (d : Word) : Word :=
  match o with
  | .ldrsb => (d.setWidth 8).signExtend 32
  | .ldrsh => (d.setWidth 16).signExtend 32
  | .ldrh => d
  | .ldrd => d
  | .strh => d
  | .strd => d

/-- The two offset forms of mode 3 (R280). -/
inductive MiscOffset
  | imm (off : BitVec 8)
  | reg (rm : RegNo)
deriving DecidableEq, Repr

/-- A halfword, signed or doubleword transfer (R129). -/
structure MiscView where
  cond : Cond
  op : MiscOp
  idx : Index
  u : Bool
  rn : RegNo
  rd : RegNo
  offset : MiscOffset
deriving DecidableEq, Repr

/-- The offset of mode 3 in a state (R280). -/
def MiscView.offsetIn (v : MiscView) (s : State) : Word :=
  match v.offset with
  | .imm off => off.setWidth 32
  | .reg rm => s.x rm

/-- `newbase` (R280). -/
def MiscView.newBaseIn (v : MiscView) (s : State) : Word := newBase v.u (s.x v.rn) (v.offsetIn s)

/-- `addr` (R280). -/
def MiscView.addrIn (v : MiscView) (s : State) : Word := transferAddr v.idx (s.x v.rn) (v.newBaseIn s)

/-- The base is written back (R280). -/
def MiscView.wb (v : MiscView) : Bool := !v.idx.p || v.idx.w

/-- One of U14–U18 and U20–U23 holds: the conditions that depend on the instruction alone (R281). -/
def MiscView.unpredictable (v : MiscView) : Bool :=
  (!v.idx.p && v.idx.w) ||
  (match v.offset with
    | .imm _ => false
    | .reg rm => rm == 15#4 || (v.wb && rm == v.rn) || (v.op == .ldrd && (rm == v.rd || rm == v.rd + 1#4))) ||
  (v.wb && v.rn == 15#4) ||
  (if v.op.double then v.rd.getLsbD 0 || v.rd == 14#4 || (v.wb && (v.rn == v.rd || v.rn == v.rd + 1#4))
    else v.rd == 15#4 || (v.wb && v.rn == v.rd))

/-- U19 or U24 holds: the address is misaligned for the transfer (R100, R281). -/
def MiscView.misaligned (v : MiscView) (s : State) : Bool :=
  (v.op.half && bit (v.addrIn s) 0) || (v.op.double && bits (v.addrIn s) 0 3 != 0#3)

/-- The mode 3 transfer that a row is. -/
def miscView : Instr → Option MiscView
  | .ldrhImm c idx u rn rd off => some ⟨c, .ldrh, idx, u, rn, rd, .imm off⟩
  | .ldrhReg c idx u rn rd rm => some ⟨c, .ldrh, idx, u, rn, rd, .reg rm⟩
  | .strhImm c idx u rn rd off => some ⟨c, .strh, idx, u, rn, rd, .imm off⟩
  | .strhReg c idx u rn rd rm => some ⟨c, .strh, idx, u, rn, rd, .reg rm⟩
  | .ldrsbImm c idx u rn rd off => some ⟨c, .ldrsb, idx, u, rn, rd, .imm off⟩
  | .ldrsbReg c idx u rn rd rm => some ⟨c, .ldrsb, idx, u, rn, rd, .reg rm⟩
  | .ldrshImm c idx u rn rd off => some ⟨c, .ldrsh, idx, u, rn, rd, .imm off⟩
  | .ldrshReg c idx u rn rd rm => some ⟨c, .ldrsh, idx, u, rn, rd, .reg rm⟩
  | .ldrdImm c idx u rn rd off => some ⟨c, .ldrd, idx, u, rn, rd, .imm off⟩
  | .ldrdReg c idx u rn rd rm => some ⟨c, .ldrd, idx, u, rn, rd, .reg rm⟩
  | .strdImm c idx u rn rd off => some ⟨c, .strd, idx, u, rn, rd, .imm off⟩
  | .strdReg c idx u rn rd rm => some ⟨c, .strd, idx, u, rn, rd, .reg rm⟩
  | _ => none

/-- The block transfers of mode 4 (R312). -/
inductive BlockForm
  | ldm1 | ldm2 | ldm3 | stm1 | stm2
deriving DecidableEq, Repr

/-- A block transfer (R130). -/
structure BlockView where
  cond : Cond
  form : BlockForm
  md : BlockMode
  w : Bool
  rn : RegNo
  list : BitVec 16
deriving DecidableEq, Repr

/-- The block transfer that a row is. -/
def blockView : Instr → Option BlockView
  | .ldm1 c md w rn list => some ⟨c, .ldm1, md, w, rn, list⟩
  | .ldm2 c md w rn list => some ⟨c, .ldm2, md, w, rn, list⟩
  | .ldm3 c md w rn list => some ⟨c, .ldm3, md, w, rn, list⟩
  | .stm1 c md w rn list => some ⟨c, .stm1, md, w, rn, list⟩
  | .stm2 c md w rn list => some ⟨c, .stm2, md, w, rn, list⟩
  | _ => none

/-- The form has S = 1 (R312). -/
def BlockForm.sBit : BlockForm → Bool
  | .ldm2 => true | .ldm3 => true | .stm2 => true | .ldm1 => false | .stm1 => false

/-- The form loads. -/
def BlockForm.loads : BlockForm → Bool
  | .ldm1 => true | .ldm2 => true | .ldm3 => true | .stm1 => false | .stm2 => false

/-- The list holds a register numbered below `r`. -/
def holdsBelow (list : BitVec 16) (r : RegNo) : Bool := (List.range r.toNat).any fun i => list.getLsbD i

/-- One of U25–U30 holds in a state (R312). -/
def BlockView.unpredictable (v : BlockView) (s : State) : Bool :=
  v.rn == 15#4 || v.list == 0#16 || (v.form.sBit && (s.mode == .usr || s.mode == .sys)) ||
  ((v.form == .ldm2 || v.form == .stm2) && v.w) ||
  (v.form.loads && v.w && v.list.getLsbD v.rn.toNat) ||
  (!v.form.loads && v.w && v.list.getLsbD v.rn.toNat && holdsBelow v.list v.rn)

/-- `popcount(register_list)` (R310): the number of bits set. -/
def popcount (list : BitVec 16) : Nat := ((List.range 16).filter fun i => list.getLsbD i).length

/-- The slot of register `i` is `popcount(mask AND (2^i − 1))` (R319). -/
def slotOf (list : BitVec 16) (i : Nat) : Nat := ((List.range i).filter fun j => list.getLsbD j).length

/-- The address that slot `k` of a transfer is accessed at: `(start_address + 4k) AND 0xFFFFFFFC` (R310). -/
def slotAddr (md : BlockMode) (base : Word) (list : BitVec 16) (k : Nat) : Word :=
  wordAligned (startAddress md base list + BitVec.ofNat 32 (4 * k))

/-- Every slot of a transfer lies in memory (R93, R310). -/
def State.blockInMemory (s : State) (md : BlockMode) (base : Word) (list : BitVec 16) : Prop :=
  ∀ k, k < popcount list → s.inMemory .word (slotAddr md base list k) = true

/-- The rows whose own effect is to raise UndefinedInstruction: the coprocessor classes, the undefined spaces and the
cond = 0b1111 space (R138). -/
def raisesUndefined : Instr → Bool
  | .blxImm .. => true
  | .undefCond1111 .. => true
  | .undefMulswp .. => true
  | .undefMisc .. => true
  | .undefClass1Move .. => true
  | .undefClass3 .. => true
  | .ldc .. => true
  | .stc .. => true
  | .cdp .. => true
  | .mrc .. => true
  | .mcr .. => true
  | _ => false

/-- The SBZ and SBO bits of an instruction's row, which are not checked (R139). w[7:4] of MRS is not among them: the
decode tree tests it (R122). -/
def sbzMask : Instr → Word
  | .blxImm .. => 0x00000000#32
  | .undefCond1111 .. => 0x00000000#32
  | .mul .. => 0x0000F000#32
  | .mla .. => 0x00000000#32
  | .umull .. => 0x00000000#32
  | .umlal .. => 0x00000000#32
  | .smull .. => 0x00000000#32
  | .smlal .. => 0x00000000#32
  | .swp .. => 0x00000F00#32
  | .swpb .. => 0x00000F00#32
  | .undefMulswp .. => 0x00000000#32
  | .ldrhImm .. => 0x00000000#32
  | .ldrhReg .. => 0x00000F00#32
  | .strhImm .. => 0x00000000#32
  | .strhReg .. => 0x00000F00#32
  | .ldrsbImm .. => 0x00000000#32
  | .ldrsbReg .. => 0x00000F00#32
  | .ldrshImm .. => 0x00000000#32
  | .ldrshReg .. => 0x00000F00#32
  | .ldrdImm .. => 0x00000000#32
  | .ldrdReg .. => 0x00000F00#32
  | .strdImm .. => 0x00000000#32
  | .strdReg .. => 0x00000F00#32
  | .mrsCpsr .. => 0x000F0F0F#32
  | .mrsSpsr .. => 0x000F0F0F#32
  | .msrCpsrReg .. => 0x0000FF00#32
  | .msrSpsrReg .. => 0x0000FF00#32
  | .bx .. => 0x000FFF00#32
  | .blxReg .. => 0x000FFF00#32
  | .clz .. => 0x000F0F00#32
  | .bkpt .. => 0x00000000#32
  | .undefMisc .. => 0x00000000#32
  | .andImmShift .. => 0x00000000#32
  | .andRegShift .. => 0x00000000#32
  | .eorImmShift .. => 0x00000000#32
  | .eorRegShift .. => 0x00000000#32
  | .subImmShift .. => 0x00000000#32
  | .subRegShift .. => 0x00000000#32
  | .rsbImmShift .. => 0x00000000#32
  | .rsbRegShift .. => 0x00000000#32
  | .addImmShift .. => 0x00000000#32
  | .addRegShift .. => 0x00000000#32
  | .adcImmShift .. => 0x00000000#32
  | .adcRegShift .. => 0x00000000#32
  | .sbcImmShift .. => 0x00000000#32
  | .sbcRegShift .. => 0x00000000#32
  | .rscImmShift .. => 0x00000000#32
  | .rscRegShift .. => 0x00000000#32
  | .tstImmShift .. => 0x0000F000#32
  | .tstRegShift .. => 0x0000F000#32
  | .teqImmShift .. => 0x0000F000#32
  | .teqRegShift .. => 0x0000F000#32
  | .cmpImmShift .. => 0x0000F000#32
  | .cmpRegShift .. => 0x0000F000#32
  | .cmnImmShift .. => 0x0000F000#32
  | .cmnRegShift .. => 0x0000F000#32
  | .orrImmShift .. => 0x00000000#32
  | .orrRegShift .. => 0x00000000#32
  | .movImmShift .. => 0x000F0000#32
  | .movRegShift .. => 0x000F0000#32
  | .bicImmShift .. => 0x00000000#32
  | .bicRegShift .. => 0x00000000#32
  | .mvnImmShift .. => 0x000F0000#32
  | .mvnRegShift .. => 0x000F0000#32
  | .msrCpsrImm .. => 0x0000F000#32
  | .msrSpsrImm .. => 0x0000F000#32
  | .undefClass1Move .. => 0x00000000#32
  | .andImm .. => 0x00000000#32
  | .eorImm .. => 0x00000000#32
  | .subImm .. => 0x00000000#32
  | .rsbImm .. => 0x00000000#32
  | .addImm .. => 0x00000000#32
  | .adcImm .. => 0x00000000#32
  | .sbcImm .. => 0x00000000#32
  | .rscImm .. => 0x00000000#32
  | .tstImm .. => 0x0000F000#32
  | .teqImm .. => 0x0000F000#32
  | .cmpImm .. => 0x0000F000#32
  | .cmnImm .. => 0x0000F000#32
  | .orrImm .. => 0x00000000#32
  | .movImm .. => 0x000F0000#32
  | .bicImm .. => 0x00000000#32
  | .mvnImm .. => 0x000F0000#32
  | .undefClass3 .. => 0x00000000#32
  | .ldrtImm .. => 0x00000000#32
  | .ldrbtImm .. => 0x00000000#32
  | .strtImm .. => 0x00000000#32
  | .strbtImm .. => 0x00000000#32
  | .ldrImm .. => 0x00000000#32
  | .ldrbImm .. => 0x00000000#32
  | .strImm .. => 0x00000000#32
  | .strbImm .. => 0x00000000#32
  | .ldrtReg .. => 0x00000000#32
  | .ldrbtReg .. => 0x00000000#32
  | .strtReg .. => 0x00000000#32
  | .strbtReg .. => 0x00000000#32
  | .ldrReg .. => 0x00000000#32
  | .ldrbReg .. => 0x00000000#32
  | .strReg .. => 0x00000000#32
  | .strbReg .. => 0x00000000#32
  | .ldm1 .. => 0x00000000#32
  | .ldm2 .. => 0x00000000#32
  | .ldm3 .. => 0x00000000#32
  | .stm1 .. => 0x00000000#32
  | .stm2 .. => 0x00000000#32
  | .b .. => 0x00000000#32
  | .bl .. => 0x00000000#32
  | .ldc .. => 0x00000000#32
  | .stc .. => 0x00000000#32
  | .swiHalt .. => 0x00000000#32
  | .swi .. => 0x00000000#32
  | .cdp .. => 0x00000000#32
  | .mrc .. => 0x00000000#32
  | .mcr .. => 0x00000000#32

/-! ## Status transfers, multiplies, swaps -/

/-- The two operand forms of MSR (R343). -/
inductive MsrOperand
  | imm (rot : BitVec 4) (imm : BitVec 8)
  | reg (rm : RegNo)
deriving DecidableEq, Repr

/-- An MSR: condition, R, field mask and operand (R127). -/
structure MsrView where
  cond : Cond
  toSpsr : Bool
  mask : BitVec 4
  operand : MsrOperand
deriving DecidableEq, Repr

/-- The operand of an MSR in a state (R343). -/
def MsrView.operandIn (v : MsrView) (s : State) : Word :=
  match v.operand with
  | .imm rot imm => (imm.setWidth 32).rotateRight (2 * rot.toNat)
  | .reg rm => s.x rm

/-- U5 (R348). -/
def MsrView.readsPc (v : MsrView) : Bool :=
  match v.operand with
  | .imm _ _ => false
  | .reg rm => rm == 15#4

/-- The MSR that a row is. -/
def msrView : Instr → Option MsrView
  | .msrCpsrReg c m rm => some ⟨c, false, m, .reg rm⟩
  | .msrSpsrReg c m rm => some ⟨c, true, m, .reg rm⟩
  | .msrCpsrImm c m rot imm => some ⟨c, false, m, .imm rot imm⟩
  | .msrSpsrImm c m rot imm => some ⟨c, true, m, .imm rot imm⟩
  | _ => none

/-- A long multiply (R134). -/
structure LongView where
  cond : Cond
  signed : Bool
  accumulates : Bool
  sets : Bool
  rdHi : RegNo
  rdLo : RegNo
  rs : RegNo
  rm : RegNo
deriving DecidableEq, Repr

/-- The long multiply that a row is. -/
def longView : Instr → Option LongView
  | .umull c sf hi lo rs rm => some ⟨c, false, false, sf, hi, lo, rs, rm⟩
  | .umlal c sf hi lo rs rm => some ⟨c, false, true, sf, hi, lo, rs, rm⟩
  | .smull c sf hi lo rs rm => some ⟨c, true, false, sf, hi, lo, rs, rm⟩
  | .smlal c sf hi lo rs rm => some ⟨c, true, true, sf, hi, lo, rs, rm⟩
  | _ => none

/-- U33 (R383). -/
def LongView.unpredictable (v : LongView) : Bool :=
  v.rdHi == 15#4 || v.rdLo == 15#4 || v.rs == 15#4 || v.rm == 15#4 || v.rdHi == v.rdLo || v.rdHi == v.rm ||
    v.rdLo == v.rm

/-- The exact product, with the accumulator where there is one (R383–R386). -/
def LongView.exact (v : LongView) (s : State) : Int :=
  (if v.signed then (s.x v.rm).toInt * (s.x v.rs).toInt else ((s.x v.rm).toNat * (s.x v.rs).toNat : Nat)) +
    (if v.accumulates then ((s.x v.rdHi).toNat * 2 ^ 32 + (s.x v.rdLo).toNat : Nat) else 0)

/-- A swap: condition, B, Rn, Rd, Rm (R135). -/
structure SwapView where
  cond : Cond
  isByte : Bool
  rn : RegNo
  rd : RegNo
  rm : RegNo
deriving DecidableEq, Repr

/-- The swap that a row is. -/
def swapView : Instr → Option SwapView
  | .swp c rn rd rm => some ⟨c, false, rn, rd, rm⟩
  | .swpb c rn rd rm => some ⟨c, true, rn, rd, rm⟩
  | _ => none

/-- U34 (R387). -/
def SwapView.unpredictable (v : SwapView) : Bool :=
  v.rn == 15#4 || v.rd == 15#4 || v.rm == 15#4 || v.rn == v.rm || v.rn == v.rd

/-- The instruction may store before an access of it fails: STRD and the two STM (R112, R424). SWP is not one of them
(assumption log 16). -/
def storesSeveral : Instr → Bool
  | .strdImm .. => true
  | .strdReg .. => true
  | .stm1 .. => true
  | .stm2 .. => true
  | _ => false

end Sys2Proof.Machine
end

