-- ==== Sys2Proof/Certificates/Slice0/Obligations.lean ====
section
/-! DEFINITION. The statements for the provers, in the words of Sys2Proof/Safety.lean. A statement about `exec i s` is about
the state in which the fetched instruction executes: `pc = ia + 4` (R173). OBLIGATIONS.json lists them. -/

open Sys2Proof Sys2Proof.Machine

/-! ## Encoding and decoding (30_encoding) -/

/-- Decoding the encoded word of a well-formed instruction gives the instruction back, with every operand (R122–R136),
from the word and from its four bytes in either byte order, whatever follows them. -/
def Obligations.DecodeOfEncode : Prop :=
  ∀ i : Instr, i.wf = true →
    decodeWord (encode i) = i ∧
    ∀ (bigEndian : Bool) (rest : List Byte),
      decode bigEndian (disassemble bigEndian 4 (encode i) ++ rest) = .ok (i, rest)

/-- The decoder is total on words, and every word decodes to a well-formed instruction (R122). -/
def Obligations.DecodedInstructionIsWellFormed : Prop := ∀ w : Word, (decodeWord w).wf = true

/-- SBZ and SBO bits are not checked: changing them changes no instruction (R139), and no other bit of a word is lost: the
decoded instruction encodes to the word it came from, but for them. Of MRS, w[7:4] is not among them: the decode tree of
R122 tests it. -/
def Obligations.OnlySbzSboBitsAreIgnored : Prop :=
  (∀ w m : Word, m &&& ~~~sbzMask (decodeWord w) = 0#32 → decodeWord (w ^^^ m) = decodeWord w) ∧
  ∀ w : Word, (encode (decodeWord w) ^^^ w) &&& ~~~sbzMask (decodeWord w) = 0#32

/-- Words written out from the spec's encodings decode to the instructions they stand for. -/
def Obligations.SpecWordsDecode : Prop :=
  decodeWord 0xE0910002#32 = .addImmShift .al true 0 1 .lsl 0 2 ∧
  decodeWord 0xE3500008#32 = .cmpImm .al 0 0 8 ∧
  decodeWord 0xE5B10004#32 = .ldrImm .al .preIndexed true 1 0 4 ∧
  decodeWord 0xE4A10004#32 = .strtImm .al true 1 0 4 ∧
  decodeWord 0xE1E101B2#32 = .strhImm .al .preIndexed true 1 0 0x12 ∧
  decodeWord 0xE8FD8001#32 = .ldm3 .al .ia true 13 0x8001 ∧
  decodeWord 0xEB000001#32 = .bl .al 1 ∧
  decodeWord 0xE321F0D2#32 = .msrCpsrImm .al 1 0 0xD2 ∧
  decodeWord 0xE0A10392#32 = .umlal .al false 1 0 3 2 ∧
  decodeWord 0x0F123456#32 = .swiHalt .eq ∧
  decodeWord 0xFA000000#32 = .blxImm false 0

/-! ## The step (40_step_and_condition) -/

/-- The three checks before fetch, in their order, each a refusal (R171). -/
def Obligations.StepChecks : Prop :=
  ∀ s : State,
    (s.mode? = none → step s = .refused .invalidMode) ∧
    (s.mode?.isSome = true → thumb s.cpsr = true → step s = .refused .thumbState) ∧
    (s.mode?.isSome = true → thumb s.cpsr = false → s.pc.toNat % 4 ≠ 0 → step s = .refused .misalignedFetch)

/-- A fetch that does not lie in memory enters PrefetchAbort with the pc, not advanced, as return address; the step
returns 4 (R172). -/
def Obligations.FailedFetch : Prop :=
  ∀ s : State, s.runnable = true → s.params.memSize < s.pc.toNat + 4 →
    ∃ t, step s = .next t ∧ entered .prefetchAbort s.pc s t ∧ Cause.code .prefetchAbort = 4

/-- When the four bytes at the pc decode to an instruction, the step is that instruction's `exec` in the advanced state,
which is the state with pc = ia + 4 and code 0, and otherwise the same (R170, R173). -/
def Obligations.StepRunsDecodedInstruction : Prop :=
  ∀ (s : State) (i : Instr), s.runnable = true → s.pc.toNat + 4 ≤ s.params.memSize →
    decode s.params.bigEndian (s.mem.readBytes s.pc.toNat 4) = .ok (i, []) →
    step s = exec i s.advance ∧
    s.advance.pc = s.pc + 4#32 ∧ s.advance.ia = s.pc ∧ sameCellsBut [.r15] s s.advance ∧
    s.advance.cpsr = s.cpsr ∧ s.advance.spsrs = s.spsrs ∧ s.advance.mem = s.mem ∧ s.advance.params = s.params ∧
    s.advance.result = .normal

/-- An instruction whose condition fails is skipped, whatever it is: nothing changes but pc, which is ia + 4, and the step
returns 0 (R175). An AL condition always passes. -/
def Obligations.FailedConditionSkips : Prop :=
  (∀ (i : Instr) (c : Cond) (s : State), i.cond? = some c → condHolds c s.cpsr = false → exec i s = .next s) ∧
  (∀ (s : State) (w : Word) (c : Cond), s.runnable = true → s.load .word s.pc = some w →
    Cond.ofCode (bits w 28 4) = some c → condHolds c s.cpsr = false →
    ∃ t, step s = .next t ∧ t.pc = s.pc + 4#32 ∧ sameCellsBut [.r15] s t ∧ t.cpsr = s.cpsr ∧ t.spsrs = s.spsrs ∧
      sameMemory s t ∧ t.params = s.params ∧ t.result = .normal) ∧
  (∀ p : Psr, condHolds .al p = true)

/-- The condition table (R176), the code 1111 being the evaluator's never. -/
def Obligations.ConditionTable : Prop :=
  (∀ p : Psr,
    condHolds .eq p = zero p ∧ condHolds .ne p = !zero p ∧
    condHolds .cs p = carry p ∧ condHolds .cc p = !carry p ∧
    condHolds .mi p = negative p ∧ condHolds .pl p = !negative p ∧
    condHolds .vs p = overflow p ∧ condHolds .vc p = !overflow p ∧
    condHolds .hi p = (carry p && !zero p) ∧ condHolds .ls p = (!carry p || zero p) ∧
    condHolds .ge p = (negative p == overflow p) ∧ condHolds .lt p = (negative p != overflow p) ∧
    condHolds .gt p = (!zero p && negative p == overflow p) ∧
    condHolds .le p = (zero p || negative p != overflow p) ∧ condHolds .al p = true) ∧
  [Cond.eq, .ne, .cs, .cc, .mi, .pl, .vs, .vc, .hi, .ls, .ge, .lt, .gt, .le, .al].map Cond.code =
    [0#4, 1#4, 2#4, 3#4, 4#4, 5#4, 6#4, 7#4, 8#4, 9#4, 10#4, 11#4, 12#4, 13#4, 14#4] ∧
  ∀ n z c v : Bool, passes 0b1111#4 n z c v = false

/-- Every step keeps the invariant: memory in canonical form inside the array, a legal mode, legal parameters; and it
keeps the parameters (R49, R91, R94, R433). -/
def Obligations.StepKeepsInvariant : Prop :=
  ∀ s t : State, s.inv = true → step s = .next t → t.inv = true ∧ t.params = s.params

/-- The state after reset meets the invariant and is runnable, and holds what Reset sets: pc = 0, SVC, T = 0, I = F = 1
(R58), whatever the legal parameters it is made with; the default policy is Refuse (R7). That its other values are
zeros, and the parameters of `State.reset`, are the model's choice (assumption logs 1 and 3) and are not stated here. -/
def Obligations.ResetMeetsInvariant : Prop :=
  (∀ p : Params, p.wf = true →
    let s := State.resetWith p
    s.inv = true ∧ s.runnable = true ∧ s.pc = 0#32 ∧ s.mode? = some .svc ∧ thumb s.cpsr = false ∧
      irqDisable s.cpsr = true ∧ fiqDisable s.cpsr = true ∧ s.result = .exception .reset ∧ s.params = p) ∧
  (∃ p : Params, p.wf = true ∧ State.reset = State.resetWith p) ∧
  ∀ (n : Nat) (b : Bool),
    (Params.default n b).unrouted = .refuse ∧ (Params.default n b).memSize = n ∧ (Params.default n b).bigEndian = b

/-- The reserved bits [27:8] of the CPSR and of the SPSRs keep the value they were given: where all hold `k`, all hold `k`
after every step and after every host-raised exception (R55). -/
def Obligations.ReservedBitsAreKept : Prop :=
  ∀ (k : BitVec 20) (s : State), reservedAre k s →
    (∀ t, step s = .next t → reservedAre k t) ∧ (∀ e : HostCause, reservedAre k (s.raise e).2)

/-- USR can leave USR only through an exception (R433): into the cause's mode, at the cause's vector, with the CPSR of
USR saved. -/
def Obligations.UserModeLeavesOnlyByException : Prop :=
  ∀ s t : State, s.mode? = some .usr → step s = .next t →
    t.mode? = some .usr ∨
    ∃ e : Cause, t.result = .exception e ∧ t.mode? = some e.target ∧ t.pc = e.vector ∧
      t.spsrs = s.spsrs.set e.target s.cpsr

/-- A step in USR that stays in USR changes no privileged state: no banked cell of another mode, no SPSR, and no bit of
the CPSR but N, Z, C, V and T (R432). One that takes an exception changes of the banked cells and SPSRs only the link
register and the SPSR of the mode entered. -/
def Obligations.UserStepKeepsPrivilegedState : Prop :=
  ∀ s t : State, s.mode? = some .usr → step s = .next t →
    (t.mode? = some .usr →
      (∀ d, d ∈ privilegedCells → t.getCell d = s.getCell d) ∧ t.spsrs = s.spsrs ∧
      ∀ j, j < 28 → j ≠ 5 → bit t.cpsr j = bit s.cpsr j) ∧
    (∀ m, t.mode? = some m → m ≠ .usr →
      (∀ d, d ∈ privilegedCells → d ≠ slot m 14#4 → t.getCell d = s.getCell d) ∧
      t.spsrs = s.spsrs.set m s.cpsr)

/-- A runnable state goes on: unless UNROUTED_POLICY is Refuse, every step that passes the checks of R171 answers a next
state, whatever word is fetched (R122, R180). -/
def Obligations.RunnableStepGoesOn : Prop :=
  ∀ s : State, s.runnable = true → s.params.unrouted ≠ .refuse → goesOn (step s)

/-- A refusal is one of the four of R171 and R380, each only where its rule raises it (R180), and no step faults. -/
def Obligations.RefusalsAreListed : Prop :=
  (∀ (s : State) (f : Fault), step s ≠ .fault f) ∧
  ∀ (s : State) (r : Refusal), step s = .refused r →
    (r = .invalidMode ∧ s.mode? = none) ∨
    (r = .thumbState ∧ thumb s.cpsr = true) ∨
    (r = .misalignedFetch ∧ s.pc.toNat % 4 ≠ 0) ∨
    (r = .unrouted ∧ s.runnable = true ∧ s.params.unrouted = .refuse ∧
      ∃ w c, s.load .word s.pc = some w ∧ (decodeWord w).isUnrouted = true ∧ (decodeWord w).cond? = some c ∧
        condHolds c s.cpsr = true)

/-- The sentinel is the only mechanism that halts (R181): a step that returns Halt ran it, with its condition passing, and
changed nothing but pc. -/
def Obligations.HaltOnlyBySentinel : Prop :=
  ∀ s t : State, step s = .next t → t.result = .halt →
    (∃ w c, s.load .word s.pc = some w ∧ decodeWord w = .swiHalt c ∧ condHolds c s.cpsr = true) ∧
    t.pc = s.pc + 4#32 ∧ sameCellsBut [.r15] s t ∧ t.cpsr = s.cpsr ∧ t.spsrs = s.spsrs ∧ sameMemory s t

/-- A store is seen by the very next fetch (R109, R477): a word stored at the pc is the instruction the next step
executes. -/
def Obligations.StoredWordIsFetched : Prop :=
  ∀ (s t : State) (w : Word), s.mem.wf = true → s.runnable = true → s.store .word s.pc w = some t →
    step t = exec (decodeWord w) t.advance

/-! ## Exceptions (60_exceptions, 70_reset_and_hazards) -/

/-- The cause codes (R420), and the cause table (R421): target mode, vector, whether the SPSR is saved and F set, and the
return address. -/
def Obligations.CauseTable : Prop :=
  [Cause.reset, .undefinedInstruction, .softwareInterrupt, .prefetchAbort, .dataAbort, .interrupt,
      .fastInterrupt].map (fun e => (e.code, e.target, e.vector, e.savesSpsr, e.setsF)) =
    [(1, .svc, 0x00#32, false, true), (2, .und, 0x04#32, true, false), (3, .svc, 0x08#32, true, false),
     (4, .abt, 0x0C#32, true, false), (5, .abt, 0x10#32, true, false), (6, .irq, 0x18#32, true, false),
     (7, .fiq, 0x1C#32, true, true)] ∧
  ∀ s : State,
    s.raiseUndefined = s.enter .undefinedInstruction (s.ia + 4#32) ∧
    s.raiseSwi = s.enter .softwareInterrupt (s.ia + 4#32) ∧
    s.fetchAbort = s.enter .prefetchAbort s.pc ∧ s.raiseDataAbort = s.enter .dataAbort s.ia ∧
    (s.raise .reset).2 = s.enter .reset s.pc ∧
    (irqDisable s.cpsr = false → (s.raise .interrupt).2 = s.enter .interrupt s.pc) ∧
    (fiqDisable s.cpsr = false → (s.raise .fastInterrupt).2 = s.enter .fastInterrupt s.pc)

/-- The entry sequence, for every cause, from every state (R422): the SPSR and the link register of the target mode, the
mode, T, I and F, the vector; the flags, bits [27:8], every other cell, SPSR and byte are kept. -/
def Obligations.EntryEffects : Prop :=
  ∀ (e : Cause) (ret : Word) (s : State), entered e ret s (s.enter e ret)

/-- `raise(E)` (R428): suppressed with no state change by the disable bit, otherwise the entry with the pc as return
address. The priority order (R427): Reset, DataAbort, FastInterrupt, Interrupt, PrefetchAbort, then UndefinedInstruction
and SoftwareInterrupt together; host causes ready together are raised in that order, so it does not matter how they are
listed. -/
def Obligations.HostRaise : Prop :=
  (∀ s : State,
    (irqDisable s.cpsr = true → s.raise .interrupt = (.suppressed, s)) ∧
    (fiqDisable s.cpsr = true → s.raise .fastInterrupt = (.suppressed, s)) ∧
    (irqDisable s.cpsr = false →
      ∃ t, s.raise .interrupt = (.taken 6, t) ∧ entered .interrupt s.pc s t) ∧
    (fiqDisable s.cpsr = false →
      ∃ t, s.raise .fastInterrupt = (.taken 7, t) ∧ entered .fastInterrupt s.pc s t) ∧
    (∃ t, s.raise .reset = (.taken 1, t) ∧ entered .reset s.pc s t) ∧
    (∀ t, s.raise .fastInterrupt = (.taken 7, t) → t.raise .interrupt = (.suppressed, t))) ∧
  [Cause.reset, .dataAbort, .fastInterrupt, .interrupt, .prefetchAbort, .undefinedInstruction,
    .softwareInterrupt].map Cause.rank = [1, 2, 3, 4, 5, 6, 6] ∧
  (∀ es : List HostCause,
    (byPriority es).Perm es ∧ (byPriority es).Pairwise (fun d e => d.cause.rank ≤ e.cause.rank) ∧
    (∀ s : State, s.raiseAll es = (byPriority es).foldl (fun t e => (t.raise e).2) s) ∧
    ∀ (ds : List HostCause) (s : State), es.Perm ds → s.raiseAll es = s.raiseAll ds)

/-- Reset raised in any state (R471, R58): pc = 0, SVC, T = 0, I = F = 1, R14_svc the pc before, code 1; every other
cell, the flags, bits [27:8], the SPSRs and memory keep their values. -/
def Obligations.ResetRaise : Prop :=
  ∀ s : State, ∃ t, s.raise .reset = (.taken 1, t) ∧
    t.pc = 0x00000000#32 ∧ t.mode? = some .svc ∧ thumb t.cpsr = false ∧ irqDisable t.cpsr = true ∧
    fiqDisable t.cpsr = true ∧ t.getCell .r14Svc = s.pc ∧ sameCellsBut [.r15, .r14Svc] s t ∧
    (∀ j, 8 ≤ j → bit t.cpsr j = bit s.cpsr j) ∧ t.spsrs = s.spsrs ∧ sameMemory s t

/-- The software exceptions complete by their own effect: SWI enters SoftwareInterrupt (R349), the sentinel halts with no
exception (R350), and BKPT, under Architectural, enters PrefetchAbort with return address ia, a condition that passes
and is not AL making it a no-op (R392). -/
def Obligations.SoftwareExceptions : Prop :=
  ∀ (c : Cond) (s : State), condHolds c s.cpsr = true →
    (∀ imm : BitVec 24, ∃ t, exec (.swi c imm) s = .next t ∧ entered .softwareInterrupt (s.ia + 4#32) s t) ∧
    (∃ t, exec (.swiHalt c) s = .next t ∧ t = { s with result := .halt }) ∧
    (∀ imm : BitVec 16, s.params.unrouted = .architectural →
      (c = .al → ∃ t, exec (.bkpt c imm) s = .next t ∧ entered .prefetchAbort s.ia s t) ∧
      (c ≠ .al → exec (.bkpt c imm) s = .next s))

/-- The encodings that raise UndefinedInstruction do so with return address ia + 4 and no other effect: the rows, where
their condition passes; the coprocessor classes (R351, R352, R353), the undefined spaces (R354) and the cond = 0b1111
space (R174, R393), as words. -/
def Obligations.UndefinedEncodings : Prop :=
  (∀ (i : Instr) (s : State), raisesUndefined i = true → (∀ c, i.cond? = some c → condHolds c s.cpsr = true) →
    ∃ t, exec i s = .next t ∧ entered .undefinedInstruction (s.ia + 4#32) s t) ∧
  (∀ w : Word, bits w 28 4 = 0b1111#4 → raisesUndefined (decodeWord w) = true ∧ (decodeWord w).cond? = none) ∧
  (∀ w : Word, bits w 28 4 ≠ 0b1111#4 →
    (bits w 25 3 = 0b110#3 → raisesUndefined (decodeWord w) = true) ∧
    (bits w 25 3 = 0b111#3 → bit w 24 = false → raisesUndefined (decodeWord w) = true) ∧
    (bits w 25 3 = 0b011#3 → bit w 4 = true → raisesUndefined (decodeWord w) = true) ∧
    (bits w 25 3 = 0b001#3 → bits w 23 2 = 0b10#2 → bits w 20 2 = 0b00#2 → raisesUndefined (decodeWord w) = true) ∧
    (bits w 25 3 = 0b000#3 → bits w 4 4 = 0b1001#4 → isMulSwpOp (bits w 20 5) = false →
      raisesUndefined (decodeWord w) = true) ∧
    (bits w 25 3 = 0b000#3 → bits w 23 2 = 0b10#2 → bit w 20 = false → isMiscOp (bits w 21 2) (bits w 4 4) = false →
      raisesUndefined (decodeWord w) = true))

/-- Exceptions are precise (R424, R112): an instruction that ends in an exception has made no register, CPSR or SPSR
write of its own, only the entry's; and no memory write, but for the completed writes of an STM or STRD, which are there:
those of the slots before the first that fails, or the first word of an STRD. R424 names SWP beside them; a swap that
aborts has written nothing, because its write cannot fail after its read (assumption log 16, DEDUCED). -/
def Obligations.ExceptionsArePrecise : Prop :=
  ∀ (i : Instr) (s t : State) (e : Cause), s.result = .normal → exec i s = .next t → t.result = .exception e →
    entered e (syncReturn e s) { s with mem := t.mem } t ∧
    e ≠ .reset ∧ e ≠ .interrupt ∧ e ≠ .fastInterrupt ∧
    (storesSeveral i = false → sameMemory s t) ∧
    (∀ v, blockView i = some v → s.mem.wf = true →
      ∃ k, k < popcount v.list ∧
        (∀ j, j < k → s.inMemory .word (slotAddr v.md (s.x v.rn) v.list j) = true) ∧
        s.inMemory .word (slotAddr v.md (s.x v.rn) v.list k) = false ∧
        (∀ b, (∀ j, j < k →
            b < (slotAddr v.md (s.x v.rn) v.list j).toNat ∨ (slotAddr v.md (s.x v.rn) v.list j).toNat + 4 ≤ b) →
          t.byteAt b = s.byteAt b) ∧
        (v.form.loads = false → ∀ r : RegNo, v.list.getLsbD r.toNat = true → slotOf v.list r.toNat < k →
          t.load .word (slotAddr v.md (s.x v.rn) v.list (slotOf v.list r.toNat)) =
            some (if v.form = .stm1 then s.x r else s.xUsr r))) ∧
    (∀ v, miscView i = some v → v.op = .strd → s.mem.wf = true →
      sameMemoryBut (v.addrIn s) 4 s t ∧
      (s.inMemory .word (v.addrIn s) = false → sameMemory s t) ∧
      (s.inMemory .word (v.addrIn s) = true → t.load .word (v.addrIn s) = some (s.x v.rd)))

/-! ## Registers and memory (10_state, 20_memory) -/

/-- The bank map (R41): the cells that R0 … R15 name in each mode. -/
def Obligations.BankMap : Prop :=
  bankOf .usr = [.r0, .r1, .r2, .r3, .r4, .r5, .r6, .r7,
    .r8Usr, .r9Usr, .r10Usr, .r11Usr, .r12Usr, .r13Usr, .r14Usr, .r15] ∧
  bankOf .sys = [.r0, .r1, .r2, .r3, .r4, .r5, .r6, .r7,
    .r8Usr, .r9Usr, .r10Usr, .r11Usr, .r12Usr, .r13Usr, .r14Usr, .r15] ∧
  bankOf .fiq = [.r0, .r1, .r2, .r3, .r4, .r5, .r6, .r7,
    .r8Fiq, .r9Fiq, .r10Fiq, .r11Fiq, .r12Fiq, .r13Fiq, .r14Fiq, .r15] ∧
  bankOf .irq = [.r0, .r1, .r2, .r3, .r4, .r5, .r6, .r7,
    .r8Usr, .r9Usr, .r10Usr, .r11Usr, .r12Usr, .r13Irq, .r14Irq, .r15] ∧
  bankOf .svc = [.r0, .r1, .r2, .r3, .r4, .r5, .r6, .r7,
    .r8Usr, .r9Usr, .r10Usr, .r11Usr, .r12Usr, .r13Svc, .r14Svc, .r15] ∧
  bankOf .abt = [.r0, .r1, .r2, .r3, .r4, .r5, .r6, .r7,
    .r8Usr, .r9Usr, .r10Usr, .r11Usr, .r12Usr, .r13Abt, .r14Abt, .r15] ∧
  bankOf .und = [.r0, .r1, .r2, .r3, .r4, .r5, .r6, .r7,
    .r8Usr, .r9Usr, .r10Usr, .r11Usr, .r12Usr, .r13Und, .r14Und, .r15]

/-- Register access (R43, R44, R45): a read of R15 is ia + 8, another register reads its cell of the current mode's bank,
a write stores in that cell and in no other, and the user-bank accesses go to the USR cells whatever the mode. That a
user-bank READ of R15 inside an instruction is ia + 8 and not the contents of the R15 cell, which R45 names, is the
model's choice (assumption log 15, DEDUCED from R43 and R317). The SPSR accessors have nothing to read or write in USR
and SYS (R51), and go to the mode's own SPSR elsewhere. -/
def Obligations.RegisterAccess : Prop :=
  ∀ (s : State) (m : Mode) (i : RegNo) (v : Word), s.mode? = some m →
    (s.x i = if i = 15#4 then s.ia + 8#32 else s.getCell (slot m i)) ∧
    (s.setX i v).getCell (slot m i) = v ∧ sameCellsBut [slot m i] s (s.setX i v) ∧
    (∀ j : RegNo, j ≠ i → slot m j ≠ slot m i) ∧
    (s.xUsr i = if i = 15#4 then s.ia + 8#32 else s.getCell (slot .usr i)) ∧
    (s.setXUsr i v).getCell (slot .usr i) = v ∧ sameCellsBut [slot .usr i] s (s.setXUsr i v) ∧
    sameStatus s (s.setX i v) ∧ sameMemory s (s.setX i v) ∧ sameStatus s (s.setXUsr i v) ∧
    sameMemory s (s.setXUsr i v) ∧
    ((m = .usr ∨ m = .sys) → s.hostReadSpsr = (0#32, false) ∧ s.hostWriteSpsr v = (s, false)) ∧
    (m ≠ .usr → m ≠ .sys →
      (s.hostWriteSpsr v).1.hostReadSpsr = (v, true) ∧ ∀ n, n ≠ m → (s.hostWriteSpsr v).1.spsrs.get? n = s.spsrs.get? n)

/-- The memory interface (R92, R93, R94): an access succeeds exactly where it lies fully inside the array; a read gives
the sum of its bytes in the memory's byte order; after a write, a read of the same width and address returns the low
bytes of the value, and no other byte has changed. -/
def Obligations.MemoryInterface : Prop :=
  ∀ (s : State) (w : Width) (a v : Word),
    ((s.load w a).isSome = true ↔ a.toNat + w.bytes ≤ s.params.memSize) ∧
    ((s.store w a v).isSome = true ↔ a.toNat + w.bytes ≤ s.params.memSize) ∧
    (∀ d, s.load w a = some d →
      d.toNat = ((List.range w.bytes).map fun k =>
        (s.byteAt (a.toNat + k)).toNat * 2 ^ (8 * (if s.params.bigEndian then w.bytes - 1 - k else k))).sum) ∧
    (s.mem.wf = true → ∀ t, s.store w a v = some t →
      t.mem.wf = true ∧ sameMemoryBut a w.bytes s t ∧ sameCellsBut [] s t ∧ sameStatus s t ∧
      ∃ d, t.load w a = some d ∧ d.toNat = v.toNat % 2 ^ (8 * w.bytes))

/-! ## Data processing (41_data_processing) -/

/-- The immediate shifter operand (R201). -/
def Obligations.ShifterImmediate : Prop :=
  ∀ (s : State) (rot : BitVec 4) (imm : BitVec 8),
    (s.opImm rot imm).value =
      (if rot = 0#4 then imm.setWidth 32
        else (imm.setWidth 32 >>> (2 * rot.toNat)) ||| (imm.setWidth 32 <<< (32 - 2 * rot.toNat))) ∧
    (s.opImm rot imm).carryOut = (if rot = 0#4 then carry s.cpsr else bit (s.opImm rot imm).value 31)

/-- The immediate-shift shifter operand (R202), row by row. -/
def Obligations.ShifterImmediateShift : Prop :=
  ∀ (s : State) (amt : BitVec 5) (rm : RegNo),
    let m := s.x rm
    let n := amt.toNat
    let c := carry s.cpsr
    let r := fun k => s.opImmShift k amt rm
    (n = 0 → r .lsl = ⟨m, c⟩) ∧
    (n ≠ 0 → (r .lsl).value.toNat = m.toNat * 2 ^ n % 2 ^ 32 ∧ (r .lsl).carryOut = bit m (32 - n)) ∧
    (n = 0 → r .lsr = ⟨0#32, bit m 31⟩) ∧
    (n ≠ 0 → (r .lsr).value.toNat = m.toNat / 2 ^ n ∧ (r .lsr).carryOut = bit m (n - 1)) ∧
    (n = 0 → r .asr = ⟨if bit m 31 then 0xFFFFFFFF#32 else 0#32, bit m 31⟩) ∧
    (n ≠ 0 → (r .asr).value.toInt = m.toInt / 2 ^ n ∧ (r .asr).carryOut = bit m (n - 1)) ∧
    (n = 0 → (r .ror).carryOut = bit m 0 ∧ bit (r .ror).value 31 = c ∧
      ∀ j, j < 31 → bit (r .ror).value j = bit m (j + 1)) ∧
    (n ≠ 0 → (r .ror).value = (m >>> n ||| m <<< (32 - n)) ∧ (r .ror).carryOut = bit m (n - 1))

/-- The register-shift shifter operand (R203), row by row; the amount is the low byte of Rs. -/
def Obligations.ShifterRegisterShift : Prop :=
  ∀ (s : State) (rs rm : RegNo),
    let m := s.x rm
    let n := (s.x rs).toNat % 256
    let r := fun k => s.opRegShift k rs rm
    (n = 0 → ∀ k, r k = ⟨m, carry s.cpsr⟩) ∧
    (1 ≤ n → n ≤ 31 → (r .lsl).value.toNat = m.toNat * 2 ^ n % 2 ^ 32 ∧ (r .lsl).carryOut = bit m (32 - n)) ∧
    (n = 32 → r .lsl = ⟨0#32, bit m 0⟩) ∧
    (33 ≤ n → r .lsl = ⟨0#32, false⟩) ∧
    (1 ≤ n → n ≤ 31 → (r .lsr).value.toNat = m.toNat / 2 ^ n ∧ (r .lsr).carryOut = bit m (n - 1)) ∧
    (n = 32 → r .lsr = ⟨0#32, bit m 31⟩) ∧
    (33 ≤ n → r .lsr = ⟨0#32, false⟩) ∧
    (1 ≤ n → n ≤ 31 → (r .asr).value.toInt = m.toInt / 2 ^ n ∧ (r .asr).carryOut = bit m (n - 1)) ∧
    (32 ≤ n → r .asr = ⟨if bit m 31 then 0xFFFFFFFF#32 else 0#32, bit m 31⟩) ∧
    (n ≠ 0 → n % 32 = 0 → r .ror = ⟨m, bit m 31⟩) ∧
    (n % 32 ≠ 0 → (r .ror).value = (m >>> (n % 32) ||| m <<< (32 - n % 32)) ∧
      (r .ror).carryOut = bit m (n % 32 - 1))

/-- The adder (R205): the exact unsigned and signed sums, the carry and the overflow; and what the arithmetic operations
feed it: the sum or difference, C as the carry or NOT borrow, V as the signed overflow of the exact result. -/
def Obligations.Adder : Prop :=
  (∀ (a b : Word) (cin : Bool),
    let r := addWithCarry a b cin
    r.value.toNat = (a.toNat + b.toNat + cin.toNat) % 2 ^ 32 ∧
    (r.carryOut = true ↔ 2 ^ 32 ≤ a.toNat + b.toNat + cin.toNat) ∧
    (r.overflowOut = true ↔ a.toInt + b.toInt + cin.toNat ≠ r.value.toInt)) ∧
  (∀ (a : Word) (b : Shifted) (p : Psr),
    let c := carry p
    aluAdd a b p = addWithCarry a b.value false ∧ aluCmn a b p = addWithCarry a b.value false ∧
    aluAdc a b p = addWithCarry a b.value c ∧
    aluSub a b p = addWithCarry a (~~~b.value) true ∧ aluCmp a b p = addWithCarry a (~~~b.value) true ∧
    aluSbc a b p = addWithCarry a (~~~b.value) c ∧
    aluRsb a b p = addWithCarry b.value (~~~a) true ∧ aluRsc a b p = addWithCarry b.value (~~~a) c ∧
    (aluSub a b p).value = a - b.value ∧
    ((aluSub a b p).carryOut = true ↔ b.value.toNat ≤ a.toNat) ∧
    ((aluSbc a b p).carryOut = true ↔ b.value.toNat + (if c then 0 else 1) ≤ a.toNat) ∧
    ((aluAdd a b p).overflowOut = true ↔ overflows (a.toInt + b.value.toInt) = true) ∧
    ((aluSub a b p).overflowOut = true ↔ overflows (a.toInt - b.value.toInt) = true))

/-- Every data-processing row that is no comparison, with Rd other than R15, in every operand form: Rd takes the result,
and with S = 1 the flags are N and Z of the result and the operation's C and V (R206, R207, and R208–R215, R220–R223);
nothing else changes. -/
def Obligations.DataProcessingResults : Prop :=
  ∀ (i : Instr) (v : DpView) (s : State), dpView i = some v → dpCompares v.op = false → v.rd ≠ 15#4 →
    v.unpredictable = false → condHolds v.cond s.cpsr = true →
    ∃ t, exec i s = .next t ∧
      t.getCell (slot s.mode v.rd) = v.result s ∧ sameCellsBut [slot s.mode v.rd] s t ∧
      (v.sets = true →
        flagsAre s.cpsr t.cpsr (bit (v.result s) 31) (v.result s == 0#32) (v.carryOut s) (v.overflowOut s)) ∧
      (v.sets = false → t.cpsr = s.cpsr) ∧ sameStatusButCpsr s t ∧ sameMemory s t

/-- TST, TEQ, CMP and CMN write the flags and nothing else, in every operand form (R206, R216–R219). -/
def Obligations.Comparisons : Prop :=
  ∀ (i : Instr) (v : DpView) (s : State), dpView i = some v → dpCompares v.op = true →
    v.unpredictable = false → condHolds v.cond s.cpsr = true →
    ∃ t, exec i s = .next t ∧
      flagsAre s.cpsr t.cpsr (bit (v.result s) 31) (v.result s == 0#32) (v.carryOut s) (v.overflowOut s) ∧
      sameCellsBut [] s t ∧ sameStatusButCpsr s t ∧ sameMemory s t

/-- Data processing to R15 (R206): the ordinary write sets pc to the result, and with S = 1 the flags; with S = 1 in a
mode that has an SPSR it is the mode return, pc and CPSR from the SPSR, or U2 where the SPSR holds an illegal mode. -/
def Obligations.DataProcessingToPc : Prop :=
  ∀ (i : Instr) (v : DpView) (s : State), dpView i = some v → dpCompares v.op = false → v.rd = 15#4 →
    v.unpredictable = false → condHolds v.cond s.cpsr = true →
    ((v.sets = false ∨ s.spsr? = none) →
      ∃ t, exec i s = .next t ∧ t.pc = v.result s ∧ sameCellsBut [.r15] s t ∧
        (v.sets = true →
          flagsAre s.cpsr t.cpsr (bit (v.result s) 31) (v.result s == 0#32) (v.carryOut s) (v.overflowOut s)) ∧
        (v.sets = false → t.cpsr = s.cpsr) ∧ sameStatusButCpsr s t ∧ sameMemory s t) ∧
    (∀ saved, v.sets = true → s.spsr? = some saved → legalMode saved = true →
      ∃ t, exec i s = .next t ∧ t.pc = v.result s ∧ t.cpsr = saved ∧ sameCellsBut [.r15] s t ∧
        sameStatusButCpsr s t ∧ sameMemory s t) ∧
    (∀ saved, v.sets = true → s.spsr? = some saved → legalMode saved = false → exec i s = .next s)

/-! ## Single transfers (42_load_store_word_byte, 43_load_store_misc) -/

/-- LDR and LDRT (R253, R257, R98), in every form: the aligned word, rotated, goes to Rd, or to pc and T for R15; the base
is written back where the form says so; nothing else changes. -/
def Obligations.LoadWord : Prop :=
  ∀ (i : Instr) (v : LsView) (s : State) (data : Word), lsView i = some v → v.loads = true → v.isByte = false →
    v.unpredictable = false → condHolds v.cond s.cpsr = true →
    s.load .word (v.addrIn s &&& 0xFFFFFFFC#32) = some data →
    let r := data.rotateRight (8 * ((v.addrIn s).toNat % 4))
    ∃ t, exec i s = .next t ∧
      (v.rd ≠ 15#4 → t.getCell (slot s.mode v.rd) = r ∧ t.cpsr = s.cpsr) ∧
      (v.rd = 15#4 → t.pc = r &&& 0xFFFFFFFE#32 ∧ thumbIs s.cpsr t.cpsr (bit r 0)) ∧
      (v.wb = true → t.getCell (slot s.mode v.rn) = v.newBaseIn s) ∧
      sameCellsBut (slot s.mode v.rd :: if v.wb then [slot s.mode v.rn] else []) s t ∧
      sameStatusButCpsr s t ∧ sameMemory s t

/-- LDRB and LDRBT (R255, R259): Rd takes the byte, zero-extended, and the base is written back where the form says so. -/
def Obligations.LoadByte : Prop :=
  ∀ (i : Instr) (v : LsView) (s : State), lsView i = some v → v.loads = true → v.isByte = true →
    v.unpredictable = false → condHolds v.cond s.cpsr = true → s.inMemory .byte (v.addrIn s) = true →
    ∃ t, exec i s = .next t ∧
      t.getCell (slot s.mode v.rd) = (s.byteAt (v.addrIn s).toNat).setWidth 32 ∧
      (v.wb = true → t.getCell (slot s.mode v.rn) = v.newBaseIn s) ∧
      sameCellsBut (slot s.mode v.rd :: if v.wb then [slot s.mode v.rn] else []) s t ∧
      sameStatus s t ∧ sameMemory s t

/-- STR, STRT (R254, R258, R99), STRB and STRBT (R256, R260): the word of Rd, read before write-back, at the aligned
address, or its low byte at the address; every other byte of memory, and every register but a written-back base, is
kept. -/
def Obligations.StoreWordOrByte : Prop :=
  ∀ (i : Instr) (v : LsView) (s : State), lsView i = some v → v.loads = false → v.unpredictable = false →
    condHolds v.cond s.cpsr = true → s.mem.wf = true →
    let a := v.addrIn s
    (v.isByte = false → s.inMemory .word (a &&& 0xFFFFFFFC#32) = true →
      ∃ t, exec i s = .next t ∧
        t.load .word (a &&& 0xFFFFFFFC#32) = some (s.x v.rd) ∧ sameMemoryBut (a &&& 0xFFFFFFFC#32) 4 s t ∧
        (v.wb = true → t.getCell (slot s.mode v.rn) = v.newBaseIn s) ∧
        sameCellsBut (if v.wb then [slot s.mode v.rn] else []) s t ∧ sameStatus s t) ∧
    (v.isByte = true → s.inMemory .byte a = true →
      ∃ t, exec i s = .next t ∧
        t.byteAt a.toNat = (s.x v.rd).setWidth 8 ∧ sameMemoryBut a 1 s t ∧
        (v.wb = true → t.getCell (slot s.mode v.rn) = v.newBaseIn s) ∧
        sameCellsBut (if v.wb then [slot s.mode v.rn] else []) s t ∧ sameStatus s t)

/-- LDRH, LDRSB and LDRSH (R282, R284, R285): Rd takes the value, zero-extended or sign-extended, and the base is written
back where the form says so. -/
def Obligations.LoadHalfOrSigned : Prop :=
  ∀ (i : Instr) (v : MiscView) (s : State) (data : Word), miscView i = some v →
    (v.op = .ldrh ∨ v.op = .ldrsb ∨ v.op = .ldrsh) → v.unpredictable = false → v.misaligned s = false →
    condHolds v.cond s.cpsr = true → s.load v.op.width (v.addrIn s) = some data →
    ∃ t, exec i s = .next t ∧
      t.getCell (slot s.mode v.rd) = v.op.extended data ∧
      (v.wb = true → t.getCell (slot s.mode v.rn) = v.newBaseIn s) ∧
      sameCellsBut (slot s.mode v.rd :: if v.wb then [slot s.mode v.rn] else []) s t ∧
      sameStatus s t ∧ sameMemory s t

/-- STRH (R283): the low halfword of Rd at the address; every other byte is kept. -/
def Obligations.StoreHalf : Prop :=
  ∀ (i : Instr) (v : MiscView) (s : State), miscView i = some v → v.op = .strh → v.unpredictable = false →
    v.misaligned s = false → condHolds v.cond s.cpsr = true → s.mem.wf = true →
    s.inMemory .half (v.addrIn s) = true →
    ∃ t, exec i s = .next t ∧
      t.load .half (v.addrIn s) = some ((s.x v.rd).setWidth 16 |>.setWidth 32) ∧ sameMemoryBut (v.addrIn s) 2 s t ∧
      (v.wb = true → t.getCell (slot s.mode v.rn) = v.newBaseIn s) ∧
      sameCellsBut (if v.wb then [slot s.mode v.rn] else []) s t ∧ sameStatus s t

/-- LDRD (R286): Rd takes the word at the address and Rd + 1 the word at the address + 4. -/
def Obligations.LoadDouble : Prop :=
  ∀ (i : Instr) (v : MiscView) (s : State) (lo hi : Word), miscView i = some v → v.op = .ldrd →
    v.unpredictable = false → v.misaligned s = false → condHolds v.cond s.cpsr = true →
    s.load .word (v.addrIn s) = some lo → s.load .word (v.addrIn s + 4#32) = some hi →
    ∃ t, exec i s = .next t ∧
      t.getCell (slot s.mode v.rd) = lo ∧ t.getCell (slot s.mode (v.rd + 1#4)) = hi ∧
      (v.wb = true → t.getCell (slot s.mode v.rn) = v.newBaseIn s) ∧
      sameCellsBut (slot s.mode v.rd :: slot s.mode (v.rd + 1#4) :: if v.wb then [slot s.mode v.rn] else []) s t ∧
      sameStatus s t ∧ sameMemory s t

/-- STRD (R287): Rd at the address and Rd + 1 at the address + 4; where only the second write fails, the first stays
written and DataAbort is entered with no base written back (R112). -/
def Obligations.StoreDouble : Prop :=
  ∀ (i : Instr) (v : MiscView) (s : State), miscView i = some v → v.op = .strd →
    v.unpredictable = false → v.misaligned s = false → condHolds v.cond s.cpsr = true → s.mem.wf = true →
    s.inMemory .word (v.addrIn s) = true →
    (s.inMemory .word (v.addrIn s + 4#32) = true →
      ∃ t, exec i s = .next t ∧
        t.load .word (v.addrIn s) = some (s.x v.rd) ∧
        t.load .word (v.addrIn s + 4#32) = some (s.x (v.rd + 1#4)) ∧ sameMemoryBut (v.addrIn s) 8 s t ∧
        (v.wb = true → t.getCell (slot s.mode v.rn) = v.newBaseIn s) ∧
        sameCellsBut (if v.wb then [slot s.mode v.rn] else []) s t ∧ sameStatus s t) ∧
    (s.inMemory .word (v.addrIn s + 4#32) = false →
      ∃ t, exec i s = .next t ∧
        t.load .word (v.addrIn s) = some (s.x v.rd) ∧ sameMemoryBut (v.addrIn s) 4 s t ∧
        entered .dataAbort s.ia { s with mem := t.mem } t)

/-- The aborts of the single transfers (R261, R288): an access that does not lie in memory enters DataAbort with return
address ia; no register of the instruction and no byte is written. -/
def Obligations.TransferAborts : Prop :=
  (∀ (i : Instr) (v : LsView) (s : State), lsView i = some v → v.unpredictable = false →
    condHolds v.cond s.cpsr = true →
    (if v.isByte then s.inMemory .byte (v.addrIn s) else s.inMemory .word (v.addrIn s &&& 0xFFFFFFFC#32)) = false →
    ∃ t, exec i s = .next t ∧ entered .dataAbort s.ia s t) ∧
  (∀ (i : Instr) (v : MiscView) (s : State), miscView i = some v → v.unpredictable = false →
    v.misaligned s = false → condHolds v.cond s.cpsr = true →
    (s.inMemory v.op.width (v.addrIn s) = false ∨
      (v.op = .ldrd ∧ s.inMemory .word (v.addrIn s + 4#32) = false)) →
    ∃ t, exec i s = .next t ∧ entered .dataAbort s.ia s t)

/-! ## Block transfers (44_load_store_multiple) -/

/-- The address range of addressing mode 4 (R310) and its invariants (R319): start, end and new base by variant, the end
four bytes less than 4 × popcount above the start, and the slot of each register the number of lower ones in the list. -/
def Obligations.BlockAddresses : Prop :=
  (∀ (base : Word) (list : BitVec 16),
    let n4 := BitVec.ofNat 32 (4 * popcount list)
    startAddress .ia base list = base ∧ endAddress .ia base list = base + n4 - 4#32 ∧
    startAddress .ib base list = base + 4#32 ∧ endAddress .ib base list = base + n4 ∧
    startAddress .da base list = base - n4 + 4#32 ∧ endAddress .da base list = base ∧
    startAddress .db base list = base - n4 ∧ endAddress .db base list = base - 4#32 ∧
    ∀ md : BlockMode,
      blockNewBase md base list = (if md.u then base + n4 else base - n4) ∧
      (list ≠ 0#16 →
        endAddress md base list = startAddress md base list + 4#32 * BitVec.ofNat 32 (popcount list - 1)) ∧
      blockSlots md base list =
        (List.range (popcount list)).map fun k => startAddress md base list + BitVec.ofNat 32 (4 * k)) ∧
  (∀ (list : BitVec 16) (r : RegNo), list.getLsbD r.toNat = true → (regsOf list)[slotOf list r.toNat]? = some r) ∧
  (∀ list : BitVec 16, (regsOf list).Pairwise (fun a b => a.toNat < b.toNat) ∧
    ∀ r, r ∈ regsOf list → list.getLsbD r.toNat = true)

/-- LDM(1) (R313): each register of the list but R15 takes its slot's word, Rn the new base with W = 1, and R15 in the list
sets pc and toggles T; nothing else changes. -/
def Obligations.LoadMultiple : Prop :=
  ∀ (i : Instr) (v : BlockView) (s : State), blockView i = some v → v.form = .ldm1 → v.unpredictable s = false →
    condHolds v.cond s.cpsr = true → s.blockInMemory v.md (s.x v.rn) v.list →
    ∃ t, exec i s = .next t ∧
      (∀ (r : RegNo) (d : Word), v.list.getLsbD r.toNat = true →
        s.load .word (slotAddr v.md (s.x v.rn) v.list (slotOf v.list r.toNat)) = some d →
        (r ≠ 15#4 → t.getCell (slot s.mode r) = d) ∧
        (r = 15#4 → t.pc = d &&& 0xFFFFFFFE#32 ∧ thumbIs s.cpsr t.cpsr (thumb s.cpsr != bit d 0))) ∧
      (v.list.getLsbD 15 = false → t.cpsr = s.cpsr) ∧
      (v.w = true → t.getCell (slot s.mode v.rn) = blockNewBase v.md (s.x v.rn) v.list) ∧
      (∀ d, (∀ r : RegNo, v.list.getLsbD r.toNat = true → d ≠ slot s.mode r) → (v.w = true → d ≠ slot s.mode v.rn) →
        t.getCell d = s.getCell d) ∧
      sameStatusButCpsr s t ∧ sameMemory s t

/-- LDM(2) (R314): each register of the list takes its slot's word in the User bank, whatever the mode; nothing else
changes. -/
def Obligations.LoadMultipleUser : Prop :=
  ∀ (i : Instr) (v : BlockView) (s : State), blockView i = some v → i.wf = true → v.form = .ldm2 →
    v.unpredictable s = false → condHolds v.cond s.cpsr = true → s.blockInMemory v.md (s.x v.rn) v.list →
    ∃ t, exec i s = .next t ∧
      (∀ (r : RegNo) (d : Word), v.list.getLsbD r.toNat = true →
        s.load .word (slotAddr v.md (s.x v.rn) v.list (slotOf v.list r.toNat)) = some d →
        t.getCell (slot .usr r) = d) ∧
      (∀ d, (∀ r : RegNo, v.list.getLsbD r.toNat = true → d ≠ slot .usr r) → t.getCell d = s.getCell d) ∧
      sameStatus s t ∧ sameMemory s t

/-- LDM(3) (R315): the registers and the base in the bank of the mode before the restore, the CPSR from the SPSR with T
toggled, and pc; U31 where the SPSR holds an illegal mode. -/
def Obligations.LoadMultipleReturn : Prop :=
  ∀ (i : Instr) (v : BlockView) (s : State) (saved : Psr), blockView i = some v → i.wf = true → v.form = .ldm3 →
    v.unpredictable s = false → condHolds v.cond s.cpsr = true → s.blockInMemory v.md (s.x v.rn) v.list →
    s.spsr? = some saved →
    (legalMode saved = false → exec i s = .next s) ∧
    (legalMode saved = true →
      ∃ t, exec i s = .next t ∧
        (∀ (r : RegNo) (d : Word), v.list.getLsbD r.toNat = true →
          s.load .word (slotAddr v.md (s.x v.rn) v.list (slotOf v.list r.toNat)) = some d →
          (r ≠ 15#4 → t.getCell (slot s.mode r) = d) ∧
          (r = 15#4 → t.pc = d &&& 0xFFFFFFFE#32 ∧ thumbIs saved t.cpsr (thumb saved != bit d 0))) ∧
        (v.w = true → t.getCell (slot s.mode v.rn) = blockNewBase v.md (s.x v.rn) v.list) ∧
        (∀ d, (∀ r : RegNo, v.list.getLsbD r.toNat = true → d ≠ slot s.mode r) →
          (v.w = true → d ≠ slot s.mode v.rn) → t.getCell d = s.getCell d) ∧
        sameStatusButCpsr s t ∧ sameMemory s t)

/-- STM(1) and STM(2) (R316, R317): each register of the list is stored at its slot, R15 as ia + 8, from the current bank
or the User bank; Rn takes the new base with W = 1; every byte outside the slots is kept. -/
def Obligations.StoreMultiple : Prop :=
  ∀ (i : Instr) (v : BlockView) (s : State), blockView i = some v → v.form.loads = false →
    v.unpredictable s = false → condHolds v.cond s.cpsr = true → s.mem.wf = true →
    s.blockInMemory v.md (s.x v.rn) v.list →
    ∃ t, exec i s = .next t ∧
      (∀ r : RegNo, v.list.getLsbD r.toNat = true →
        t.load .word (slotAddr v.md (s.x v.rn) v.list (slotOf v.list r.toNat)) =
          some (if v.form = .stm1 then s.x r else s.xUsr r)) ∧
      (∀ b, (∀ k, k < popcount v.list →
          b < (slotAddr v.md (s.x v.rn) v.list k).toNat ∨ (slotAddr v.md (s.x v.rn) v.list k).toNat + 4 ≤ b) →
        t.byteAt b = s.byteAt b) ∧
      (v.w = true → t.getCell (slot s.mode v.rn) = blockNewBase v.md (s.x v.rn) v.list) ∧
      sameCellsBut (if v.w then [slot s.mode v.rn] else []) s t ∧ sameStatus s t

/-- The aborts of the block transfers (R318, R112): where slot `k` is the first that does not lie in memory, DataAbort is
entered with return address ia and no register written; a load changes no byte, and a store has written the slots
before `k` and no other byte. -/
def Obligations.BlockAborts : Prop :=
  ∀ (i : Instr) (v : BlockView) (s : State) (k : Nat), blockView i = some v → v.unpredictable s = false →
    condHolds v.cond s.cpsr = true → s.mem.wf = true → k < popcount v.list →
    (∀ j, j < k → s.inMemory .word (slotAddr v.md (s.x v.rn) v.list j) = true) →
    s.inMemory .word (slotAddr v.md (s.x v.rn) v.list k) = false →
    ∃ t, exec i s = .next t ∧ entered .dataAbort s.ia { s with mem := t.mem } t ∧
      (v.form.loads = true → sameMemory s t) ∧
      (v.form.loads = false →
        (∀ r : RegNo, v.list.getLsbD r.toNat = true → slotOf v.list r.toNat < k →
          t.load .word (slotAddr v.md (s.x v.rn) v.list (slotOf v.list r.toNat)) =
            some (if v.form = .stm1 then s.x r else s.xUsr r)) ∧
        (∀ b, (∀ j, j < k →
            b < (slotAddr v.md (s.x v.rn) v.list j).toNat ∨ (slotAddr v.md (s.x v.rn) v.list j).toNat + 4 ≤ b) →
          t.byteAt b = s.byteAt b))

/-! ## UNPREDICTABLE conditions (00_scope, 41_data_processing, 42 to 44) -/

/-- An instruction for which one of its UNPREDICTABLE conditions holds is a no-op (R17, R179): U1 of the register-shift
form (R204); U9–U13 (R252); U14–U18 and U20–U23, and the misaligned addresses U19 and U24 (R281, R100); U25–U30 (R312). -/
def Obligations.UnpredictableNoOps : Prop :=
  (∀ (i : Instr) (v : DpView) (s : State), dpView i = some v → v.unpredictable = true → exec i s = .next s) ∧
  (∀ (i : Instr) (v : LsView) (s : State), lsView i = some v → v.unpredictable = true → exec i s = .next s) ∧
  (∀ (i : Instr) (v : MiscView) (s : State), miscView i = some v →
    (v.unpredictable = true ∨ v.misaligned s = true) → exec i s = .next s) ∧
  (∀ (i : Instr) (v : BlockView) (s : State), blockView i = some v → v.unpredictable s = true → exec i s = .next s)

/-! ## Branches and status transfers (45_branch_status_swi) -/

/-- B and BL (R340, R341): pc becomes ia + 8 plus the sign-extended offset times 4, and BL sets LR of the current mode to
ia + 4; nothing else changes. -/
def Obligations.Branches : Prop :=
  ∀ (c : Cond) (imm : BitVec 24) (s : State), condHolds c s.cpsr = true →
    let target := BitVec.ofInt 32 ((s.ia.toNat : Int) + 8 + 4 * imm.toInt)
    (∃ t, exec (.b c imm) s = .next t ∧ t.pc = target ∧ sameCellsBut [.r15] s t ∧ sameStatus s t ∧ sameMemory s t) ∧
    (∃ t, exec (.bl c imm) s = .next t ∧ t.pc = target ∧ t.getCell (slot s.mode 14#4) = s.ia + 4#32 ∧
      sameCellsBut [.r15, slot s.mode 14#4] s t ∧ sameStatus s t ∧ sameMemory s t)

/-- MRS (R342): Rd takes the CPSR or the SPSR as it stands; Rd = 15 is U3, and the SPSR of USR or SYS is U4. -/
def Obligations.StatusToRegister : Prop :=
  ∀ (c : Cond) (rd : RegNo) (s : State) (m : Mode), s.mode? = some m → condHolds c s.cpsr = true →
    (rd ≠ 15#4 →
      ∃ t, exec (.mrsCpsr c rd) s = .next t ∧ t.getCell (slot m rd) = s.cpsr ∧ sameCellsBut [slot m rd] s t ∧
        sameStatus s t ∧ sameMemory s t) ∧
    (∀ p, rd ≠ 15#4 → s.spsrs.get? m = some p →
      ∃ t, exec (.mrsSpsr c rd) s = .next t ∧ t.getCell (slot m rd) = p ∧ sameCellsBut [slot m rd] s t ∧
        sameStatus s t ∧ sameMemory s t) ∧
    (rd = 15#4 → exec (.mrsCpsr c rd) s = .next s ∧ exec (.mrsSpsr c rd) s = .next s) ∧
    ((m = .usr ∨ m = .sys) → exec (.mrsSpsr c rd) s = .next s)

/-- MSR to the CPSR, both operand forms (R343, R344, R345): in USR only the flags byte is written; in a privileged mode the
control byte writes I, F and M too, an operand with T = 1 or an illegal mode under it being U7 or U8; no other bit, and
nothing else, changes. Rm = 15 is U5 (R348). -/
def Obligations.RegisterToCpsr : Prop :=
  ∀ (i : Instr) (v : MsrView) (s : State) (m : Mode), msrView i = some v → v.toSpsr = false → s.mode? = some m →
    condHolds v.cond s.cpsr = true →
    let o := v.operandIn s
    (v.readsPc = true → exec i s = .next s) ∧
    (v.readsPc = false → m = .usr →
      ∃ t, exec i s = .next t ∧
        (∀ j, bit t.cpsr j = if 28 ≤ j ∧ v.mask.getLsbD 3 = true then bit o j else bit s.cpsr j) ∧
        sameCellsBut [] s t ∧ sameStatusButCpsr s t ∧ sameMemory s t) ∧
    (v.readsPc = false → m ≠ .usr → v.mask.getLsbD 0 = true → (bit o 5 = true ∨ legalMode o = false) →
      exec i s = .next s) ∧
    (v.readsPc = false → m ≠ .usr → (v.mask.getLsbD 0 = true → bit o 5 = false ∧ legalMode o = true) →
      ∃ t, exec i s = .next t ∧
        (∀ j, bit t.cpsr j =
          if (28 ≤ j ∧ v.mask.getLsbD 3 = true) ∨ (j < 8 ∧ j ≠ 5 ∧ v.mask.getLsbD 0 = true) then bit o j
          else bit s.cpsr j) ∧
        sameCellsBut [] s t ∧ sameStatusButCpsr s t ∧ sameMemory s t)

/-- MSR to the SPSR, both operand forms (R343, R344, R346): the flags byte writes N, Z, C and V, the control byte I, F, T
and M, of the current mode's SPSR; nothing else changes. USR and SYS are U6, Rm = 15 is U5 (R348). -/
def Obligations.RegisterToSpsr : Prop :=
  ∀ (i : Instr) (v : MsrView) (s : State) (m : Mode), msrView i = some v → v.toSpsr = true → s.mode? = some m →
    condHolds v.cond s.cpsr = true →
    let o := v.operandIn s
    (v.readsPc = true → exec i s = .next s) ∧
    ((m = .usr ∨ m = .sys) → exec i s = .next s) ∧
    (∀ p, v.readsPc = false → s.spsrs.get? m = some p →
      ∃ t q, exec i s = .next t ∧ t.spsrs = s.spsrs.set m q ∧
        (∀ j, bit q j =
          if (28 ≤ j ∧ v.mask.getLsbD 3 = true) ∨ (j < 8 ∧ v.mask.getLsbD 0 = true) then bit o j else bit p j) ∧
        t.cpsr = s.cpsr ∧ sameCellsBut [] s t ∧ sameMemory s t ∧ t.params = s.params ∧ t.result = s.result)

/-! ## The instructions the source does not route (46_unrouted_v5t) -/

/-- UNROUTED_POLICY (R380): an unrouted instruction whose condition passes is refused under Refuse, and raises
UndefinedInstruction under Undefined; where its condition fails it is skipped under every policy. -/
def Obligations.UnroutedPolicy : Prop :=
  ∀ (i : Instr) (c : Cond) (s : State), i.isUnrouted = true → i.cond? = some c →
    (condHolds c s.cpsr = true → s.params.unrouted = .refuse → exec i s = .refused .unrouted) ∧
    (condHolds c s.cpsr = true → s.params.unrouted = .undefined →
      ∃ t, exec i s = .next t ∧ entered .undefinedInstruction (s.ia + 4#32) s t) ∧
    (condHolds c s.cpsr = false → exec i s = .next s)

/-- MUL and MLA under Architectural (R381, R382): Rd takes the product, or the product and Rn, modulo 2^32; with S = 1, N
and Z from it, C and V kept; U32 is a no-op. -/
def Obligations.Multiply : Prop :=
  ∀ (c : Cond) (sf : Bool) (rd rn rs rm : RegNo) (s : State), condHolds c s.cpsr = true →
    s.params.unrouted = .architectural →
    let done := fun (r : Word) (t : State) =>
      t.getCell (slot s.mode rd) = r ∧ sameCellsBut [slot s.mode rd] s t ∧
      (sf = true → flagsAre s.cpsr t.cpsr (bit r 31) (r == 0#32) (carry s.cpsr) (overflow s.cpsr)) ∧
      (sf = false → t.cpsr = s.cpsr) ∧ sameStatusButCpsr s t ∧ sameMemory s t
    ((rd = 15#4 ∨ rm = 15#4 ∨ rs = 15#4 ∨ rd = rm) →
      exec (.mul c sf rd rs rm) s = .next s ∧ exec (.mla c sf rd rn rs rm) s = .next s) ∧
    (rn = 15#4 → exec (.mla c sf rd rn rs rm) s = .next s) ∧
    (rd ≠ 15#4 → rm ≠ 15#4 → rs ≠ 15#4 → rd ≠ rm →
      (∃ t, exec (.mul c sf rd rs rm) s = .next t ∧
        done (BitVec.ofNat 32 ((s.x rm).toNat * (s.x rs).toNat)) t) ∧
      (rn ≠ 15#4 → ∃ t, exec (.mla c sf rd rn rs rm) s = .next t ∧
        done (BitVec.ofNat 32 ((s.x rm).toNat * (s.x rs).toNat + (s.x rn).toNat)) t))

/-- UMULL, UMLAL, SMULL and SMLAL under Architectural (R383–R386): RdHi and RdLo take the exact product, with the
accumulator where there is one, modulo 2^64; with S = 1, N and Z from it, C and V kept; U33 is a no-op. -/
def Obligations.MultiplyLong : Prop :=
  ∀ (i : Instr) (v : LongView) (s : State), longView i = some v → condHolds v.cond s.cpsr = true →
    s.params.unrouted = .architectural →
    (v.unpredictable = true → exec i s = .next s) ∧
    (v.unpredictable = false →
      ∃ t, exec i s = .next t ∧
        let p := BitVec.ofInt 64 (v.exact s)
        t.getCell (slot s.mode v.rdHi) ++ t.getCell (slot s.mode v.rdLo) = p ∧
        sameCellsBut [slot s.mode v.rdHi, slot s.mode v.rdLo] s t ∧
        (v.sets = true → flagsAre s.cpsr t.cpsr (p.getLsbD 63) (p == 0#64) (carry s.cpsr) (overflow s.cpsr)) ∧
        (v.sets = false → t.cpsr = s.cpsr) ∧ sameStatusButCpsr s t ∧ sameMemory s t)

/-- SWP and SWPB under Architectural (R387, R388): the old word, rotated, or the old byte goes to Rd and the register to
memory, no other byte changing; U34 is a no-op, and an access outside memory enters DataAbort with nothing written. -/
def Obligations.Swap : Prop :=
  ∀ (i : Instr) (v : SwapView) (s : State), swapView i = some v → condHolds v.cond s.cpsr = true →
    s.params.unrouted = .architectural → s.mem.wf = true →
    let a := s.x v.rn
    let a4 := a &&& 0xFFFFFFFC#32
    (v.unpredictable = true → exec i s = .next s) ∧
    (∀ data, v.unpredictable = false → v.isByte = false → s.load .word a4 = some data →
      ∃ t, exec i s = .next t ∧ t.getCell (slot s.mode v.rd) = data.rotateRight (8 * (a.toNat % 4)) ∧
        t.load .word a4 = some (s.x v.rm) ∧ sameMemoryBut a4 4 s t ∧ sameCellsBut [slot s.mode v.rd] s t ∧
        sameStatus s t) ∧
    (v.unpredictable = false → v.isByte = true → s.inMemory .byte a = true →
      ∃ t, exec i s = .next t ∧ t.getCell (slot s.mode v.rd) = (s.byteAt a.toNat).setWidth 32 ∧
        t.byteAt a.toNat = (s.x v.rm).setWidth 8 ∧ sameMemoryBut a 1 s t ∧ sameCellsBut [slot s.mode v.rd] s t ∧
        sameStatus s t) ∧
    (v.unpredictable = false →
      (if v.isByte then s.inMemory .byte a else s.inMemory .word a4) = false →
      ∃ t, exec i s = .next t ∧ entered .dataAbort s.ia s t)

/-- BX and BLX (register) under Architectural (R389, R390): T takes bit 0 of the register and pc the rest; BLX sets LR to
ia + 4 after reading the register, and Rm = 15 makes BLX a no-op (U36). -/
def Obligations.BranchExchange : Prop :=
  ∀ (c : Cond) (rm : RegNo) (s : State), condHolds c s.cpsr = true → s.params.unrouted = .architectural →
    (∃ t, exec (.bx c rm) s = .next t ∧ t.pc = s.x rm &&& 0xFFFFFFFE#32 ∧
      thumbIs s.cpsr t.cpsr (bit (s.x rm) 0) ∧ sameCellsBut [.r15] s t ∧ sameStatusButCpsr s t ∧ sameMemory s t) ∧
    (rm ≠ 15#4 →
      ∃ t, exec (.blxReg c rm) s = .next t ∧ t.pc = s.x rm &&& 0xFFFFFFFE#32 ∧
        thumbIs s.cpsr t.cpsr (bit (s.x rm) 0) ∧ t.getCell (slot s.mode 14#4) = s.ia + 4#32 ∧
        sameCellsBut [.r15, slot s.mode 14#4] s t ∧ sameStatusButCpsr s t ∧ sameMemory s t) ∧
    (rm = 15#4 → exec (.blxReg c rm) s = .next s)

/-- CLZ under Architectural (R391): Rd takes the number of consecutive 0 bits of Rm from bit 31 downward; Rd = 15 or Rm = 15
is U35. -/
def Obligations.CountLeadingZeros : Prop :=
  ∀ (c : Cond) (rd rm : RegNo) (s : State), condHolds c s.cpsr = true → s.params.unrouted = .architectural →
    ((rd = 15#4 ∨ rm = 15#4) → exec (.clz c rd rm) s = .next s) ∧
    (rd ≠ 15#4 → rm ≠ 15#4 →
      ∃ (t : State) (n : Nat), exec (.clz c rd rm) s = .next t ∧
        t.getCell (slot s.mode rd) = BitVec.ofNat 32 n ∧ n ≤ 32 ∧
        (∀ j, 32 - n ≤ j → bit (s.x rm) j = false) ∧ (n < 32 → bit (s.x rm) (31 - n) = true) ∧
        sameCellsBut [slot s.mode rd] s t ∧ sameStatus s t ∧ sameMemory s t)
end

