-- ==== Sys2Proof/Laws/Fields.lean ====
section
/-! SUPPORT. The laws of the bit-field helpers of Sys2Proof/Decode.lean: a field read from a word of placed fields is
the field placed there, and a field read elsewhere is 0. They push `decodeWord (encode i)` down to the tree's tests. -/

namespace Sys2Proof

@[simp] theorem bits_or (v w : Word) (lo n : Nat) : bits (v ||| w) lo n = bits v lo n ||| bits w lo n := by
  ext i hi; simp [bits]

@[simp] theorem bit_or (v w : Word) (i : Nat) : bit (v ||| w) i = (bit v i || bit w i) := by
  simp [bit]

/-- A field read below or above the placed one is 0. -/
theorem bits_place_below {k : Nat} (x : BitVec k) (lo s n : Nat) (h : s + n ≤ lo) : bits (place x lo) s n = 0#n := by
  ext i hi
  simp [bits, place]
  omega

theorem bits_place_above {k : Nat} (x : BitVec k) (lo s n : Nat) (h : lo + k ≤ s) : bits (place x lo) s n = 0#n := by
  ext i hi
  simp [bits, place]
  intro _ _ _
  apply BitVec.getLsbD_of_ge
  omega

/-- A field read inside the placed one is that part of it. -/
theorem bits_place_inside {k : Nat} (x : BitVec k) (lo s n : Nat) (h₁ : lo ≤ s) (h₂ : s + n ≤ lo + k)
    (h₃ : lo + k ≤ 32) : bits (place x lo) s n = x.extractLsb' (s - lo) n := by
  ext i hi
  have e : s + i - lo = s - lo + i := by omega
  simp [bits, place, e]
  have : s + i < 32 ∧ lo ≤ s + i := by omega
  have h' : s - lo + i < 32 := by omega
  simp [this, h']

theorem bit_place_below {k : Nat} (x : BitVec k) (lo i : Nat) (h : i < lo) : bit (place x lo) i = false := by
  simp [bit, place]; omega

theorem bit_place_above {k : Nat} (x : BitVec k) (lo i : Nat) (h : lo + k ≤ i) : bit (place x lo) i = false := by
  simp [bit, place]; intro _ _ _; apply BitVec.getLsbD_of_ge; omega

theorem bit_place_inside {k : Nat} (x : BitVec k) (lo i : Nat) (h₁ : lo ≤ i) (h₂ : i < lo + k) (h₃ : lo + k ≤ 32) :
    bit (place x lo) i = x.getLsbD (i - lo) := by
  have : i < 32 := by omega
  simp [bit, place, h₁, this]

@[simp] theorem getLsbD_flag (b : Bool) : (flag b).getLsbD 0 = b := by cases b <;> rfl

@[simp] theorem getElem_flag (b : Bool) : (flag b)[0] = b := by cases b <;> rfl

/-- The whole field. -/
@[simp] theorem extractLsb'_whole {n : Nat} (x : BitVec n) : x.extractLsb' 0 n = x := by
  ext i hi; simp

@[simp] theorem Cond.ofCode_code (c : Cond) : Cond.ofCode c.code = some c := by cases c <;> rfl

@[simp] theorem ShiftKind.ofCode_code (k : ShiftKind) : ShiftKind.ofCode k.code = k := by cases k <;> rfl

@[simp] theorem DpOp.ofCode_code (o : DpOp) : DpOp.ofCode o.code = o := by cases o <;> rfl

@[simp] theorem Index.ofPW_p_w (i : Index) : Index.ofPW i.p i.w = i := by cases i <;> rfl

@[simp] theorem BlockMode.ofPU_p_u (m : BlockMode) : BlockMode.ofPU m.p m.u = m := by cases m <;> rfl

theorem Cond.code_ofCode (b : BitVec 4) (c : Cond) (h : Cond.ofCode b = some c) : c.code = b := by
  revert h; revert c b; decide

/-- Two adjoining fields put together. -/
@[simp] theorem extract_append_8 (x : BitVec 8) : (x.extractLsb' 4 4 ++ x.extractLsb' 0 4 : BitVec 8) = x := by
  have h := BitVec.extractLsb'_append_extractLsb'_eq_extractLsb' (x := x) (start₁ := 0) (start₂ := 4) (len₁ := 4)
    (len₂ := 4) (by decide)
  exact h.trans (by ext i hi; simp)

@[simp] theorem extract_append_16 (x : BitVec 16) : (x.extractLsb' 4 12 ++ x.extractLsb' 0 4 : BitVec 16) = x := by
  have h := BitVec.extractLsb'_append_extractLsb'_eq_extractLsb' (x := x) (start₁ := 0) (start₂ := 4) (len₁ := 4)
    (len₂ := 12) (by decide)
  exact h.trans (by ext i hi; simp)

end Sys2Proof
end

