-- ==== Sys2Proof/Laws/State.lean ====
section
/-! SUPPORT. The small lemmas of State: one per field per update, so that no proof unfolds a record update. -/

namespace Sys2Proof.Machine

@[simp] theorem getCell_mk (r : RegBank) (p : Psr) (b : SpsrBank) (m : Memory) (q : Params) (e : Result) (c : RegCell) :
    State.getCell ⟨r, p, b, m, q, e⟩ c = r.get c := rfl

/-- A bank read after a write gives the value written, at that cell only (R40). -/
@[simp] theorem RegBank.get_set (b : RegBank) (c d : RegCell) (v : Word) :
    (b.set c v).get d = if d = c then v else b.get d := by
  cases c <;> cases d <;> rfl

@[simp] theorem getCell_setCell (s : State) (c d : RegCell) (v : Word) :
    (s.setCell c v).getCell d = if d = c then v else s.getCell d := by
  simp [State.getCell, State.setCell]

/-- A saved status register read after a write (R50, R51). -/
@[simp] theorem SpsrBank.get?_set (b : SpsrBank) (m n : Mode) (p : Psr) :
    (b.set m p).get? n = if n = m then (b.get? m).map fun _ => p else b.get? n := by
  cases m <;> cases n <;> rfl

@[simp] theorem setCell_cpsr (s : State) (c : RegCell) (v : Word) : (s.setCell c v).cpsr = s.cpsr := rfl
@[simp] theorem setCell_spsrs (s : State) (c : RegCell) (v : Word) : (s.setCell c v).spsrs = s.spsrs := rfl
@[simp] theorem setCell_mem (s : State) (c : RegCell) (v : Word) : (s.setCell c v).mem = s.mem := rfl
@[simp] theorem setCell_params (s : State) (c : RegCell) (v : Word) : (s.setCell c v).params = s.params := rfl
@[simp] theorem setCell_result (s : State) (c : RegCell) (v : Word) : (s.setCell c v).result = s.result := rfl

@[simp] theorem setCell_regs (s : State) (c : RegCell) (v : Word) : (s.setCell c v).regs = s.regs.set c v := rfl

@[simp] theorem setPc_cpsr (s : State) (v : Word) : (s.setPc v).cpsr = s.cpsr := rfl
@[simp] theorem setPc_spsrs (s : State) (v : Word) : (s.setPc v).spsrs = s.spsrs := rfl
@[simp] theorem setPc_mem (s : State) (v : Word) : (s.setPc v).mem = s.mem := rfl
@[simp] theorem setPc_params (s : State) (v : Word) : (s.setPc v).params = s.params := rfl
@[simp] theorem setPc_result (s : State) (v : Word) : (s.setPc v).result = s.result := rfl

@[simp] theorem setX_cpsr (s : State) (i : RegNo) (v : Word) : (s.setX i v).cpsr = s.cpsr := rfl
@[simp] theorem setX_spsrs (s : State) (i : RegNo) (v : Word) : (s.setX i v).spsrs = s.spsrs := rfl
@[simp] theorem setX_mem (s : State) (i : RegNo) (v : Word) : (s.setX i v).mem = s.mem := rfl
@[simp] theorem setX_params (s : State) (i : RegNo) (v : Word) : (s.setX i v).params = s.params := rfl
@[simp] theorem setX_result (s : State) (i : RegNo) (v : Word) : (s.setX i v).result = s.result := rfl

@[simp] theorem setXUsr_cpsr (s : State) (i : RegNo) (v : Word) : (s.setXUsr i v).cpsr = s.cpsr := rfl
@[simp] theorem setXUsr_spsrs (s : State) (i : RegNo) (v : Word) : (s.setXUsr i v).spsrs = s.spsrs := rfl
@[simp] theorem setXUsr_mem (s : State) (i : RegNo) (v : Word) : (s.setXUsr i v).mem = s.mem := rfl
@[simp] theorem setXUsr_params (s : State) (i : RegNo) (v : Word) : (s.setXUsr i v).params = s.params := rfl
@[simp] theorem setXUsr_result (s : State) (i : RegNo) (v : Word) : (s.setXUsr i v).result = s.result := rfl

@[simp] theorem setCpsr_regs (s : State) (p : Psr) : (s.setCpsr p).regs = s.regs := rfl
@[simp] theorem setCpsr_spsrs (s : State) (p : Psr) : (s.setCpsr p).spsrs = s.spsrs := rfl
@[simp] theorem setCpsr_mem (s : State) (p : Psr) : (s.setCpsr p).mem = s.mem := rfl
@[simp] theorem setCpsr_params (s : State) (p : Psr) : (s.setCpsr p).params = s.params := rfl
@[simp] theorem setCpsr_result (s : State) (p : Psr) : (s.setCpsr p).result = s.result := rfl

@[simp] theorem setCpsr_cpsr (s : State) (p : Psr) : (s.setCpsr p).cpsr = p := rfl

@[simp] theorem setSpsr_regs (s : State) (m : Mode) (p : Psr) : (s.setSpsr m p).regs = s.regs := rfl
@[simp] theorem setSpsr_cpsr (s : State) (m : Mode) (p : Psr) : (s.setSpsr m p).cpsr = s.cpsr := rfl
@[simp] theorem setSpsr_mem (s : State) (m : Mode) (p : Psr) : (s.setSpsr m p).mem = s.mem := rfl
@[simp] theorem setSpsr_params (s : State) (m : Mode) (p : Psr) : (s.setSpsr m p).params = s.params := rfl
@[simp] theorem setSpsr_result (s : State) (m : Mode) (p : Psr) : (s.setSpsr m p).result = s.result := rfl

@[simp] theorem setSpsr_spsrs (s : State) (m : Mode) (p : Psr) : (s.setSpsr m p).spsrs = s.spsrs.set m p := rfl

@[simp] theorem setT_regs (s : State) (b : Bool) : (s.setT b).regs = s.regs := rfl
@[simp] theorem setT_spsrs (s : State) (b : Bool) : (s.setT b).spsrs = s.spsrs := rfl
@[simp] theorem setT_mem (s : State) (b : Bool) : (s.setT b).mem = s.mem := rfl
@[simp] theorem setT_params (s : State) (b : Bool) : (s.setT b).params = s.params := rfl
@[simp] theorem setT_result (s : State) (b : Bool) : (s.setT b).result = s.result := rfl

@[simp] theorem setT_cpsr (s : State) (b : Bool) : (s.setT b).cpsr = setThumb s.cpsr b := rfl

@[simp] theorem setFlags_regs (s : State) (r : AluResult) : (s.setFlags r).regs = s.regs := rfl
@[simp] theorem setFlags_spsrs (s : State) (r : AluResult) : (s.setFlags r).spsrs = s.spsrs := rfl
@[simp] theorem setFlags_mem (s : State) (r : AluResult) : (s.setFlags r).mem = s.mem := rfl
@[simp] theorem setFlags_params (s : State) (r : AluResult) : (s.setFlags r).params = s.params := rfl
@[simp] theorem setFlags_result (s : State) (r : AluResult) : (s.setFlags r).result = s.result := rfl

@[simp] theorem setFlags_cpsr (s : State) (r : AluResult) : (s.setFlags r).cpsr = setNZCV s.cpsr r := rfl

@[simp] theorem returnFrom_spsrs (s : State) (p : Psr) (v : Word) : (s.returnFrom p v).spsrs = s.spsrs := rfl
@[simp] theorem returnFrom_mem (s : State) (p : Psr) (v : Word) : (s.returnFrom p v).mem = s.mem := rfl
@[simp] theorem returnFrom_params (s : State) (p : Psr) (v : Word) : (s.returnFrom p v).params = s.params := rfl
@[simp] theorem returnFrom_result (s : State) (p : Psr) (v : Word) : (s.returnFrom p v).result = s.result := rfl

@[simp] theorem returnFrom_cpsr (s : State) (p : Psr) (v : Word) : (s.returnFrom p v).cpsr = p := rfl

@[simp] theorem branchExchange_spsrs (s : State) (v : Word) : (s.branchExchange v).spsrs = s.spsrs := rfl
@[simp] theorem branchExchange_mem (s : State) (v : Word) : (s.branchExchange v).mem = s.mem := rfl
@[simp] theorem branchExchange_params (s : State) (v : Word) : (s.branchExchange v).params = s.params := rfl
@[simp] theorem branchExchange_result (s : State) (v : Word) : (s.branchExchange v).result = s.result := rfl

@[simp] theorem branchExchange_cpsr (s : State) (v : Word) :
    (s.branchExchange v).cpsr = setThumb s.cpsr (bit v 0) := rfl

@[simp] theorem branchToggle_spsrs (s : State) (v : Word) : (s.branchToggle v).spsrs = s.spsrs := rfl
@[simp] theorem branchToggle_mem (s : State) (v : Word) : (s.branchToggle v).mem = s.mem := rfl
@[simp] theorem branchToggle_params (s : State) (v : Word) : (s.branchToggle v).params = s.params := rfl
@[simp] theorem branchToggle_result (s : State) (v : Word) : (s.branchToggle v).result = s.result := rfl

@[simp] theorem branchToggle_cpsr (s : State) (v : Word) :
    (s.branchToggle v).cpsr = setThumb s.cpsr (thumb s.cpsr != bit v 0) := rfl

@[simp] theorem halt_regs (s : State)  : (s.halt).regs = s.regs := rfl
@[simp] theorem halt_cpsr (s : State)  : (s.halt).cpsr = s.cpsr := rfl
@[simp] theorem halt_spsrs (s : State)  : (s.halt).spsrs = s.spsrs := rfl
@[simp] theorem halt_mem (s : State)  : (s.halt).mem = s.mem := rfl
@[simp] theorem halt_params (s : State)  : (s.halt).params = s.params := rfl

@[simp] theorem halt_result (s : State) : s.halt.result = .halt := rfl

@[simp] theorem advance_cpsr (s : State)  : (s.advance).cpsr = s.cpsr := rfl
@[simp] theorem advance_spsrs (s : State)  : (s.advance).spsrs = s.spsrs := rfl
@[simp] theorem advance_mem (s : State)  : (s.advance).mem = s.mem := rfl
@[simp] theorem advance_params (s : State)  : (s.advance).params = s.params := rfl

@[simp] theorem advance_result (s : State) : s.advance.result = .normal := rfl

@[simp] theorem enter_mem (s : State) (e : Cause) (r : Word) : (s.enter e r).mem = s.mem := rfl
@[simp] theorem enter_params (s : State) (e : Cause) (r : Word) : (s.enter e r).params = s.params := rfl
@[simp] theorem enter_result (s : State) (e : Cause) (r : Word) : (s.enter e r).result = .exception e := rfl
@[simp] theorem enter_cpsr (s : State) (e : Cause) (r : Word) : (s.enter e r).cpsr = entryCpsr e s.cpsr := rfl
@[simp] theorem enter_spsrs (s : State) (e : Cause) (r : Word) :
    (s.enter e r).spsrs = if e.savesSpsr then s.spsrs.set e.target s.cpsr else s.spsrs := rfl

/-! ## Cells -/

@[simp] theorem getCell_setPc (s : State) (v : Word) (d : RegCell) :
    (s.setPc v).getCell d = if d = .r15 then v else s.getCell d := getCell_setCell ..

@[simp] theorem getCell_setX (s : State) (i : RegNo) (v : Word) (d : RegCell) :
    (s.setX i v).getCell d = if d = slot s.mode i then v else s.getCell d := getCell_setCell ..

@[simp] theorem getCell_setXUsr (s : State) (i : RegNo) (v : Word) (d : RegCell) :
    (s.setXUsr i v).getCell d = if d = slot .usr i then v else s.getCell d := getCell_setCell ..

@[simp] theorem getCell_setCpsr (s : State) (p : Psr) (d : RegCell) : (s.setCpsr p).getCell d = s.getCell d := rfl
@[simp] theorem getCell_setSpsr (s : State) (m : Mode) (p : Psr) (d : RegCell) : (s.setSpsr m p).getCell d = s.getCell d := rfl
@[simp] theorem getCell_setT (s : State) (b : Bool) (d : RegCell) : (s.setT b).getCell d = s.getCell d := rfl
@[simp] theorem getCell_setFlags (s : State) (r : AluResult) (d : RegCell) : (s.setFlags r).getCell d = s.getCell d := rfl
@[simp] theorem getCell_halt (s : State)  (d : RegCell) : (s.halt).getCell d = s.getCell d := rfl

@[simp] theorem getCell_returnFrom (s : State) (p : Psr) (v : Word) (d : RegCell) :
    (s.returnFrom p v).getCell d = if d = .r15 then v else s.getCell d := by simp [State.returnFrom]

@[simp] theorem getCell_branchExchange (s : State) (v : Word) (d : RegCell) :
    (s.branchExchange v).getCell d = if d = .r15 then clearBit0 v else s.getCell d := by simp [State.branchExchange]

@[simp] theorem getCell_branchToggle (s : State) (v : Word) (d : RegCell) :
    (s.branchToggle v).getCell d = if d = .r15 then clearBit0 v else s.getCell d := by simp [State.branchToggle]

@[simp] theorem getCell_advance (s : State) (d : RegCell) :
    s.advance.getCell d = if d = .r15 then s.pc + 4#32 else s.getCell d := by
  simp [State.advance, State.getCell, State.setPc]

@[simp] theorem getCell_enter (s : State) (e : Cause) (r : Word) (d : RegCell) :
    (s.enter e r).getCell d =
      if d = .r15 then e.vector else if d = slot e.target 14#4 then r else s.getCell d := by
  simp [State.enter, State.getCell]

/-! ## The pc, the mode and the operands they route -/

/-- R15 is the program counter in every mode (R41). -/
@[simp] theorem slot_15 (m : Mode) : slot m 15#4 = .r15 := rfl

/-- No other register number names the program counter (R41). -/
theorem slot_eq_r15 (m : Mode) (i : RegNo) : slot m i = .r15 ↔ i = 15#4 := by
  cases m <;> revert i <;> decide

/-- Two register numbers of one mode never share a cell (R40). -/
theorem slot_inj (m : Mode) (i j : RegNo) : slot m i = slot m j ↔ i = j := by
  cases m <;> revert i j <;> decide

/-- The link register's cell in a mode that an exception enters is not the pc. -/
@[simp] theorem lr_ne_pc (m : Mode) : slot m 14#4 ≠ .r15 := by cases m <;> decide

@[simp] theorem pc_setPc (s : State) (v : Word) : (s.setPc v).pc = v := by simp [State.pc]

@[simp] theorem pc_enter (s : State) (e : Cause) (r : Word) : (s.enter e r).pc = e.vector := by simp [State.pc]

@[simp] theorem pc_advance (s : State) : s.advance.pc = s.pc + 4#32 := by simp [State.pc]

@[simp] theorem ia_advance (s : State) : s.advance.ia = s.pc := by simp [State.ia]

/-- A write of a register other than R15 keeps the pc. -/
theorem pc_setX (s : State) (i : RegNo) (v : Word) (h : i ≠ 15#4) : (s.setX i v).pc = s.pc := by
  have : RegCell.r15 ≠ slot s.mode i := fun e => h ((slot_eq_r15 ..).1 e.symm)
  simp [State.pc, this]

/-- The mode depends on the CPSR only. -/
theorem mode_congr (s t : State) (h : t.cpsr = s.cpsr) : t.mode = s.mode := by
  simp [State.mode, State.mode?, h]

@[simp] theorem mode_setCell (s : State) (c : RegCell) (v : Word) : (s.setCell c v).mode = s.mode := rfl
@[simp] theorem mode?_setCell (s : State) (c : RegCell) (v : Word) : (s.setCell c v).mode? = s.mode? := rfl
@[simp] theorem mode_setPc (s : State) (v : Word) : (s.setPc v).mode = s.mode := rfl
@[simp] theorem mode?_setPc (s : State) (v : Word) : (s.setPc v).mode? = s.mode? := rfl
@[simp] theorem mode_setX (s : State) (i : RegNo) (v : Word) : (s.setX i v).mode = s.mode := rfl
@[simp] theorem mode?_setX (s : State) (i : RegNo) (v : Word) : (s.setX i v).mode? = s.mode? := rfl
@[simp] theorem mode_setXUsr (s : State) (i : RegNo) (v : Word) : (s.setXUsr i v).mode = s.mode := rfl
@[simp] theorem mode?_setXUsr (s : State) (i : RegNo) (v : Word) : (s.setXUsr i v).mode? = s.mode? := rfl
@[simp] theorem mode_setSpsr (s : State) (m : Mode) (p : Psr) : (s.setSpsr m p).mode = s.mode := rfl
@[simp] theorem mode?_setSpsr (s : State) (m : Mode) (p : Psr) : (s.setSpsr m p).mode? = s.mode? := rfl
@[simp] theorem mode_advance (s : State)  : (s.advance).mode = s.mode := rfl
@[simp] theorem mode?_advance (s : State)  : (s.advance).mode? = s.mode? := rfl

@[simp] theorem Mode.ofCode_code (m : Mode) : Mode.ofCode m.code = some m := by cases m <;> rfl

theorem Mode.code_of_ofCode (b : BitVec 5) (m : Mode) (h : Mode.ofCode b = some m) : m.code = b := by
  revert h; cases m <;> revert b <;> decide

end Sys2Proof.Machine
end

