-- ==== Sys2Proof/Laws/Flags.lean ====
section
/-! SUPPORT. The laws of the status-register fields (R46), of the condition evaluator (R176), of the adder (R205) and of
the CPSR that an exception entry makes (R422). -/

namespace Sys2Proof.Machine

/-! ## One bit, one field -/

theorem bit_ge (w : Word) (i : Nat) (h : 32 ≤ i) : bit w i = false := BitVec.getLsbD_of_ge _ _ h

/-- A field is made of its bits. -/
theorem bits_eq_iff (v w : Word) (lo n : Nat) :
    bits v lo n = bits w lo n ↔ ∀ i, i < n → bit v (lo + i) = bit w (lo + i) := by
  constructor
  · intro h i hi
    have := congrArg (fun x : BitVec n => x.getLsbD i) h
    simpa [bits, bit, hi] using this
  · intro h
    ext i hi
    simpa [bits, bit] using h i hi

/-- The bit written, and no other (R46). -/
theorem bit_setBit (w : Word) (i j : Nat) (b : Bool) (hi : i < 32) :
    bit (setBit w i b) j = if j = i then b else bit w j := by
  by_cases hj : j < 32
  · by_cases e : j = i
    · subst e; simp [bit, setBit, hj]
    · by_cases hle : i ≤ j
      · have hz : j - i ≠ 0 := by omega
        simp only [bit, setBit, BitVec.getLsbD_or, BitVec.getLsbD_and, BitVec.getLsbD_not, BitVec.getLsbD_shiftLeft,
          BitVec.getLsbD_one, BitVec.getLsbD_setWidth, hj, e]
        have : (flag b).getLsbD (j - i) = false := BitVec.getLsbD_of_ge _ _ (by omega)
        simp [this, hz]
      · have hlt : j < i := by omega
        simp [bit, setBit, hj, e, hlt]
  · rw [bit_ge _ j (by omega), bit_ge _ j (by omega)]
    have : j ≠ i := by omega
    simp [this]

/-- A field that does not hold the bit written is kept. -/
theorem bits_setBit_outside (w : Word) (i lo n : Nat) (b : Bool) (hi : i < 32) (h : i < lo ∨ lo + n ≤ i) :
    bits (setBit w i b) lo n = bits w lo n := by
  rw [bits_eq_iff]; intro k hk
  rw [bit_setBit _ _ _ _ hi]
  have : lo + k ≠ i := by omega
  simp [this]

@[simp] theorem modeField_setModeField (p : Psr) (m : BitVec 5) : modeField (setModeField p m) = m := by
  apply BitVec.eq_of_getLsbD_eq
  intro i hi
  have : i < 32 := by omega
  rcases (by omega : i = 0 ∨ i = 1 ∨ i = 2 ∨ i = 3 ∨ i = 4) with h | h | h | h | h <;> subst h <;>
    simp [modeField, setModeField, bits]

theorem bit_setModeField (p : Psr) (m : BitVec 5) (j : Nat) (h : 5 ≤ j) : bit (setModeField p m) j = bit p j := by
  by_cases hj : j < 32
  · have hm : m.getLsbD j = false := BitVec.getLsbD_of_ge _ _ (by omega)
    have hc : (0xFFFFFFE0#32).getLsbD j = true := by
      have : ∀ j, j < 32 → 5 ≤ j → (0xFFFFFFE0#32).getLsbD j = true := by decide
      exact this j hj h
    simp only [bit, setModeField, BitVec.getLsbD_or, BitVec.getLsbD_and, BitVec.getLsbD_setWidth, hm, hc]
    simp
  · rw [bit_ge _ j (by omega), bit_ge _ j (by omega)]

/-! ## The CPSR of an exception entry (R422) -/

@[simp] theorem modeField_entryCpsr (e : Cause) (p : Psr) : modeField (entryCpsr e p) = e.target.code := by
  have h : ∀ q : Psr, ∀ b c d : Bool, modeField (setBit (setBit (setBit q 5 b) 7 c) 6 d) = modeField q := by
    intro q b c d
    simp only [modeField]
    rw [bits_setBit_outside _ _ _ _ _ (by decide) (by decide), bits_setBit_outside _ _ _ _ _ (by decide) (by decide),
      bits_setBit_outside _ _ _ _ _ (by decide) (by decide)]
  have h' : ∀ q : Psr, ∀ b c : Bool, modeField (setBit (setBit q 5 b) 7 c) = modeField q := by
    intro q b c
    simp only [modeField]
    rw [bits_setBit_outside _ _ _ _ _ (by decide) (by decide), bits_setBit_outside _ _ _ _ _ (by decide) (by decide)]
  cases e <;> simp [entryCpsr, setIrqDisable, setFiqDisable, setThumb, Cause.setsF, h, h']

/-- Above the mode field the entry sets T = 0, I = 1 and, for Reset and FastInterrupt, F = 1; every other bit is
kept. -/
theorem bit_entryCpsr (e : Cause) (p : Psr) (j : Nat) (h : 5 ≤ j) :
    bit (entryCpsr e p) j =
      if j = 5 then false else if j = 7 then true else if j = 6 ∧ e.setsF then true else bit p j := by
  cases e <;>
    simp only [entryCpsr, setIrqDisable, setFiqDisable, setThumb, Cause.setsF, Bool.false_eq_true, if_true, if_false] <;>
    simp only [bit_setBit _ _ _ _ (by decide : (5 : Nat) < 32), bit_setBit _ _ _ _ (by decide : (6 : Nat) < 32),
      bit_setBit _ _ _ _ (by decide : (7 : Nat) < 32), bit_setModeField _ _ _ h] <;>
    by_cases h5 : j = 5 <;> by_cases h6 : j = 6 <;> by_cases h7 : j = 7 <;> simp [h5, h6, h7]

/-- The mode after an exception entry is the cause's target (R421). -/
@[simp] theorem mode?_enter (s : State) (e : Cause) (r : Word) : (s.enter e r).mode? = some e.target := by
  simp [State.mode?]

@[simp] theorem mode_enter (s : State) (e : Cause) (r : Word) : (s.enter e r).mode = e.target := by
  simp [State.mode]

@[simp] theorem legalMode_entryCpsr (e : Cause) (p : Psr) : legalMode (entryCpsr e p) = true := by
  simp [legalMode]

@[simp] theorem reservedField_entryCpsr (e : Cause) (p : Psr) : reservedField (entryCpsr e p) = reservedField p := by
  rw [reservedField, reservedField, bits_eq_iff]; intro i _
  rw [bit_entryCpsr _ _ _ (by omega)]
  have h5 : 8 + i ≠ 5 := by omega
  have h6 : 8 + i ≠ 6 := by omega
  have h7 : 8 + i ≠ 7 := by omega
  simp [h5, h6, h7]

/-! ## Flag updates (R206, R381) -/

theorem bit_setNZ (p : Psr) (v : Word) (j : Nat) :
    bit (setNZ p v) j = if j = 30 then (v == 0#32) else if j = 31 then bit v 31 else bit p j := by
  rw [setNZ, bit_setBit _ _ _ _ (by decide), bit_setBit _ _ _ _ (by decide)]

theorem bit_setNZCV (p : Psr) (r : AluResult) (j : Nat) :
    bit (setNZCV p r) j =
      if j = 28 then r.overflowOut else if j = 29 then r.carryOut
      else if j = 30 then (r.value == 0#32) else if j = 31 then bit r.value 31 else bit p j := by
  rw [setNZCV, bit_setBit _ _ _ _ (by decide), bit_setBit _ _ _ _ (by decide), bit_setNZ]

theorem bit_setNZLong (p : Psr) (v : BitVec 64) (j : Nat) :
    bit (setNZLong p v) j = if j = 30 then (v == 0#64) else if j = 31 then v.getLsbD 63 else bit p j := by
  rw [setNZLong, bit_setBit _ _ _ _ (by decide), bit_setBit _ _ _ _ (by decide)]

/-- Two PSRs that agree below bit 28 have the same mode field and reserved bits. -/
theorem modeField_congr (p q : Psr) (h : ∀ j, j < 28 → bit q j = bit p j) : modeField q = modeField p := by
  rw [modeField, modeField, bits_eq_iff]; intro i hi; exact h _ (by omega)

theorem reservedField_congr (p q : Psr) (h : ∀ j, j < 28 → bit q j = bit p j) :
    reservedField q = reservedField p := by
  rw [reservedField, reservedField, bits_eq_iff]; intro i hi; exact h _ (by omega)

@[simp] theorem modeField_setNZCV (p : Psr) (r : AluResult) : modeField (setNZCV p r) = modeField p := by
  apply modeField_congr; intro j hj; rw [bit_setNZCV]
  simp [show j ≠ 28 by omega, show j ≠ 29 by omega, show j ≠ 30 by omega, show j ≠ 31 by omega]

@[simp] theorem modeField_setNZ (p : Psr) (v : Word) : modeField (setNZ p v) = modeField p := by
  apply modeField_congr; intro j hj; rw [bit_setNZ]
  simp [show j ≠ 30 by omega, show j ≠ 31 by omega]

@[simp] theorem modeField_setNZLong (p : Psr) (v : BitVec 64) : modeField (setNZLong p v) = modeField p := by
  apply modeField_congr; intro j hj; rw [bit_setNZLong]
  simp [show j ≠ 30 by omega, show j ≠ 31 by omega]

@[simp] theorem modeField_setThumb (p : Psr) (b : Bool) : modeField (setThumb p b) = modeField p := by
  rw [modeField, modeField, setThumb, bits_setBit_outside _ _ _ _ _ (by decide) (by decide)]

@[simp] theorem reservedField_setThumb (p : Psr) (b : Bool) : reservedField (setThumb p b) = reservedField p := by
  rw [reservedField, reservedField, setThumb, bits_setBit_outside _ _ _ _ _ (by decide) (by decide)]

theorem bit_setThumb (p : Psr) (b : Bool) (j : Nat) : bit (setThumb p b) j = if j = 5 then b else bit p j :=
  bit_setBit _ _ _ _ (by decide)

/-! ## MSR (R343) -/

/-- MSR writes the bits of the mask from the operand and keeps the others (R343). -/
theorem bit_maskedWrite (target operand mask : Word) (j : Nat) :
    bit (maskedWrite target operand mask) j = if bit mask j then bit operand j else bit target j := by
  by_cases hj : j < 32
  · simp only [bit, maskedWrite, BitVec.getLsbD_or, BitVec.getLsbD_and, BitVec.getLsbD_not]
    by_cases h : mask.getLsbD j = true
    · simp only [h]; simp
    · rw [Bool.not_eq_true] at h
      simp only [h]; simp [hj]
  · rw [bit_ge _ j (by omega), bit_ge mask j (by omega), bit_ge target j (by omega)]; simp

/-! ## The adder (R205) -/

@[simp] theorem addWithCarry_value (a b : Word) (cin : Bool) :
    (addWithCarry a b cin).value = a + b + (BitVec.ofBool cin).setWidth 32 := by
  apply BitVec.eq_of_toNat_eq
  cases cin <;> simp [addWithCarry]

theorem addWithCarry_carryOut (a b : Word) (cin : Bool) :
    (addWithCarry a b cin).carryOut = decide (2 ^ 32 ≤ a.toNat + b.toNat + cin.toNat) := rfl

end Sys2Proof.Machine
end

