-- ==== Sys2Proof/Laws/Memory.lean ====
section
/-! SUPPORT. The laws of memory: a read after a write, the canonical form kept by every operation, byte order, and what a
load or a store of the memory interface can do (R92–R94, R112). -/

namespace Sys2Proof.Machine

/-! ## One byte -/

/-- Below the first address of the canonical form nothing is listed. -/
theorem Memory.read_below (m : Memory) (lo a : Nat) (h : Memory.wfFrom lo m = true) (ha : a < lo) :
    m.read a = unlistedByte := by
  induction m generalizing lo with
  | nil => rfl
  | cons p rest ih =>
    obtain ⟨k, b⟩ := p
    simp [Memory.wfFrom] at h
    have : k ≠ a := by omega
    simp [Memory.read, this]
    exact ih (k + 1) h.2 (by omega)

/-- A byte written is read back, and every other byte is kept. -/
theorem Memory.read_write (m : Memory) (lo a c : Nat) (b : Byte) (h : Memory.wfFrom lo m = true) :
    (m.write a b).read c = if c = a then b else m.read c := by
  induction m generalizing lo with
  | nil =>
    by_cases hb : b = unlistedByte <;> by_cases hc : a = c <;> simp [Memory.write, Memory.read, hb, hc, eq_comm]
  | cons p rest ih =>
    obtain ⟨k, d⟩ := p
    simp [Memory.wfFrom] at h
    by_cases h1 : a < k
    · by_cases hb : b = unlistedByte
      · by_cases hc : c = a
        · subst hc
          have hk : k ≠ c := by omega
          simp [Memory.write, h1, hb, Memory.read, hk]
          exact Memory.read_below rest (k + 1) c h.2 (by omega)
        · simp [Memory.write, h1, hb, hc]
      · simp only [Memory.write, if_pos h1, if_neg hb, Memory.read, eq_comm (a := a)]
    · by_cases h2 : a = k
      · subst h2
        by_cases hc : c = a
        · subst hc
          by_cases hb : b = unlistedByte
          · simp [Memory.write, hb]
            exact Memory.read_below rest (c + 1) c h.2 (by omega)
          · simp [Memory.write, hb, Memory.read]
        · have hc' : a ≠ c := fun e => hc e.symm
          by_cases hb : b = unlistedByte <;> simp [Memory.write, hb, Memory.read, hc, hc']
      · simp only [Memory.write, if_neg h1, if_neg h2, Memory.read]
        rw [ih (k + 1) h.2]
        by_cases hk : k = c
        · have hc : c ≠ a := by omega
          simp [hk, hc]
        · simp [hk]

/-- The canonical form is kept by a write. -/
theorem Memory.wfFrom_write (m : Memory) (lo a : Nat) (b : Byte) (h : Memory.wfFrom lo m = true) (ha : lo ≤ a) :
    Memory.wfFrom lo (m.write a b) = true := by
  induction m generalizing lo with
  | nil => by_cases hb : b = unlistedByte <;> simp [Memory.write, hb, Memory.wfFrom, ha]
  | cons p rest ih =>
    obtain ⟨k, d⟩ := p
    simp [Memory.wfFrom] at h
    by_cases h1 : a < k
    · by_cases hb : b = unlistedByte <;> simp [Memory.write, h1, hb, Memory.wfFrom, h, ha]
    · by_cases h2 : a = k
      · subst h2
        by_cases hb : b = unlistedByte
        · simp only [Memory.write, Nat.lt_irrefl, if_false, if_true, hb]
          have mono : ∀ (l : Memory) (x y : Nat), x ≤ y → Memory.wfFrom y l = true → Memory.wfFrom x l = true := by
            intro l x y hxy hl
            cases l with
            | nil => rfl
            | cons q r => simp [Memory.wfFrom] at hl ⊢; exact ⟨⟨by omega, hl.1.2⟩, hl.2⟩
          exact mono rest lo (a + 1) (by omega) h.2
        · simp [Memory.write, hb, Memory.wfFrom, h]
      · simp only [Memory.write, if_neg h1, if_neg h2, Memory.wfFrom]
        simp [h.1.1, h.1.2]
        exact ih (k + 1) h.2 (by omega)

theorem Memory.wf_write (m : Memory) (a : Nat) (b : Byte) (h : m.wf = true) : (m.write a b).wf = true :=
  Memory.wfFrom_write m 0 a b h (Nat.zero_le _)

/-- A write below the array's end keeps every listed address below it. -/
theorem Memory.within_write (m : Memory) (n a : Nat) (b : Byte) (h : m.within n = true) (ha : a < n) :
    (m.write a b).within n = true := by
  induction m with
  | nil => by_cases hb : b = unlistedByte <;> simp [Memory.write, hb, Memory.within, ha]
  | cons p rest ih =>
    obtain ⟨k, d⟩ := p
    have hr : Memory.within rest n = true := by
      simp [Memory.within] at h ⊢; exact h.2
    have hk : k < n := by simp [Memory.within] at h; exact h.1
    have hcons : ∀ (q : Host.Cell) (l : Memory), q.1 < n → Memory.within l n = true → Memory.within (q :: l) n = true := by
      intro q l hq hl; simp only [Memory.within, List.all_cons, Bool.and_eq_true, decide_eq_true_eq] at hl ⊢
      exact ⟨hq, hl⟩
    by_cases h1 : a < k
    · by_cases hb : b = unlistedByte <;> simp only [Memory.write, if_pos h1, hb, if_true, if_false]
      · exact h
      · exact hcons _ _ ha (hcons _ _ hk hr)
    · by_cases h2 : a = k
      · subst h2
        by_cases hb : b = unlistedByte <;> simp only [Memory.write, Nat.lt_irrefl, hb, if_true, if_false]
        · exact hr
        · exact hcons _ _ ha hr
      · simp only [Memory.write, if_neg h1, if_neg h2]
        exact hcons _ _ hk (ih hr)

/-- Equal reads make equal memories: the canonical form is unique. -/
theorem Memory.ext_wfFrom (m n : Memory) (lo : Nat) (hm : Memory.wfFrom lo m = true) (hn : Memory.wfFrom lo n = true)
    (h : ∀ a, m.read a = n.read a) : m = n := by
  induction m generalizing n lo with
  | nil =>
    cases n with
    | nil => rfl
    | cons q r =>
      obtain ⟨k, b⟩ := q
      have := h k
      simp [Memory.wfFrom] at hn
      simp [Memory.read] at this
      exact absurd this.symm hn.1.2
  | cons p rest ih =>
    obtain ⟨k, b⟩ := p
    simp [Memory.wfFrom] at hm
    cases n with
    | nil =>
      have := h k
      simp [Memory.read] at this
      exact absurd this hm.1.2
    | cons q r =>
      obtain ⟨k', b'⟩ := q
      simp [Memory.wfFrom] at hn
      have hk : k = k' := by
        rcases Nat.lt_trichotomy k k' with hlt | heq | hgt
        · have e := h k
          have : k' ≠ k := by omega
          simp [Memory.read, this] at e
          rw [Memory.read_below r (k' + 1) k hn.2 (by omega)] at e
          exact absurd e hm.1.2
        · exact heq
        · have e := h k'
          have : k ≠ k' := by omega
          simp [Memory.read, this] at e
          rw [Memory.read_below rest (k + 1) k' hm.2 (by omega)] at e
          exact absurd e.symm hn.1.2
      subst hk
      have hb : b = b' := by simpa [Memory.read] using h k
      subst hb
      congr 1
      apply ih r (k + 1) hm.2 hn.2
      intro a
      by_cases ha : k = a
      · subst ha
        rw [Memory.read_below rest _ _ hm.2 (by omega), Memory.read_below r _ _ hn.2 (by omega)]
      · simpa [Memory.read, ha] using h a

/-! ## Runs of bytes -/

@[simp] theorem Memory.length_readBytes (m : Memory) (a n : Nat) : (m.readBytes a n).length = n := by
  induction n generalizing a with
  | zero => rfl
  | succ n ih => simp [Memory.readBytes, ih]

theorem Memory.wf_writeBytes (m : Memory) (a : Nat) (bs : List Byte) (h : m.wf = true) :
    (m.writeBytes a bs).wf = true := by
  induction bs generalizing m a with
  | nil => exact h
  | cons b bs ih => exact ih _ _ (Memory.wf_write m a b h)

theorem Memory.within_writeBytes (m : Memory) (n a : Nat) (bs : List Byte) (h : m.within n = true)
    (ha : a + bs.length ≤ n) : (m.writeBytes a bs).within n = true := by
  induction bs generalizing m a with
  | nil => exact h
  | cons b bs ih =>
    simp at ha
    exact ih _ _ (Memory.within_write m n a b h (by omega)) (by omega)

/-- Bytes outside the run written are kept. -/
theorem Memory.read_writeBytes_outside (m : Memory) (a c : Nat) (bs : List Byte) (h : m.wf = true)
    (hc : c < a ∨ a + bs.length ≤ c) : (m.writeBytes a bs).read c = m.read c := by
  induction bs generalizing m a with
  | nil => rfl
  | cons b bs ih =>
    simp at hc
    rw [Memory.writeBytes, ih _ _ (Memory.wf_write m a b h) (by omega), Memory.read_write m 0 a c b h]
    have : c ≠ a := by omega
    simp [this]

/-- The run written is read back. -/
theorem Memory.readBytes_writeBytes (m : Memory) (a : Nat) (bs : List Byte) (h : m.wf = true) :
    (m.writeBytes a bs).readBytes a bs.length = bs := by
  induction bs generalizing m a with
  | nil => rfl
  | cons b bs ih =>
    have hw := Memory.wf_write m a b h
    simp only [Memory.writeBytes, List.length_cons, Memory.readBytes]
    rw [ih _ _ hw, Memory.read_writeBytes_outside _ _ _ _ hw (by omega), Memory.read_write m 0 a a b h]
    simp

/-- A run of bytes that no write touched reads as before. -/
theorem Memory.readBytes_congr (m m' : Memory) (a n : Nat) (h : ∀ c, a ≤ c → c < a + n → m'.read c = m.read c) :
    m'.readBytes a n = m.readBytes a n := by
  induction n generalizing a with
  | zero => rfl
  | succ n ih =>
    simp only [Memory.readBytes]
    rw [h a (by omega) (by omega), ih (a + 1) (fun c h1 h2 => h c (by omega) (by omega))]

/-! ## Byte order (R94) -/

@[simp] theorem length_littleEndianBytes (n : Nat) (v : Word) : (littleEndianBytes n v).length = n := by
  induction n generalizing v with
  | zero => rfl
  | succ n ih => simp [littleEndianBytes, ih]

@[simp] theorem length_disassemble (e : Bool) (n : Nat) (v : Word) : (disassemble e n v).length = n := by
  cases e <;> simp [disassemble]

/-- The low bytes of a value, zero-extended: what a load of the width gives after a store of the value. -/
def Width.low (w : Width) (v : Word) : Word :=
  match w with
  | .byte => (v.setWidth 8).setWidth 32
  | .half => (v.setWidth 16).setWidth 32
  | .word => v

/-- Taking a value apart and putting it together again gives its low bytes, in either byte order. -/
theorem assemble_disassemble (e : Bool) (w : Width) (v : Word) :
    assemble e (disassemble e w.bytes v) = w.low v := by
  have h : assemble e (disassemble e w.bytes v) = littleEndian (littleEndianBytes w.bytes v) := by
    cases e <;> simp [assemble, disassemble]
  rw [h]
  apply BitVec.eq_of_getLsbD_eq
  intro i hi
  cases w <;> simp only [Width.bytes, Width.low, littleEndianBytes, littleEndian] <;> interval_cases i <;> simp

/-! ## The memory interface (R92, R93) -/

theorem inMemory_iff (s : State) (w : Width) (a : Word) :
    s.inMemory w a = true ↔ a.toNat + w.bytes ≤ s.params.memSize := by simp [State.inMemory]

theorem inMemory_false_iff (s : State) (w : Width) (a : Word) :
    s.inMemory w a = false ↔ s.params.memSize < a.toNat + w.bytes := by simp [State.inMemory]

theorem load_of_inMemory (s : State) (w : Width) (a : Word) (h : s.inMemory w a = true) :
    s.load w a = some (assemble s.params.bigEndian (s.mem.readBytes a.toNat w.bytes)) := by simp [State.load, h]

theorem load_of_outside (s : State) (w : Width) (a : Word) (h : s.inMemory w a = false) : s.load w a = none := by
  simp [State.load, h]

theorem store_of_inMemory (s : State) (w : Width) (a v : Word) (h : s.inMemory w a = true) :
    s.store w a v = some { s with mem := s.mem.writeBytes a.toNat (disassemble s.params.bigEndian w.bytes v) } := by
  simp [State.store, h]

theorem store_of_outside (s : State) (w : Width) (a v : Word) (h : s.inMemory w a = false) : s.store w a v = none := by
  simp [State.store, h]

/-- A store that answers ok changes memory only, in the bytes of its width. -/
theorem store_eq_some (s t : State) (w : Width) (a v : Word) (h : s.store w a v = some t) :
    a.toNat + w.bytes ≤ s.params.memSize ∧
    t = { s with mem := s.mem.writeBytes a.toNat (disassemble s.params.bigEndian w.bytes v) } := by
  simp [State.store, State.inMemory] at h
  exact ⟨h.1, h.2.symm⟩

theorem store_isSome (s : State) (w : Width) (a v : Word) :
    (s.store w a v).isSome = s.inMemory w a := by
  simp only [State.store]; split <;> simp_all

theorem load_isSome (s : State) (w : Width) (a : Word) : (s.load w a).isSome = s.inMemory w a := by
  simp only [State.load]; split <;> simp_all

/-- A load after a store of the same width and address gives the value stored (R94). -/
theorem load_store (s t : State) (w : Width) (a v : Word) (hm : s.mem.wf = true) (h : s.store w a v = some t) :
    t.load w a = some (w.low v) := by
  obtain ⟨hin, rfl⟩ := store_eq_some s t w a v h
  have := Memory.readBytes_writeBytes s.mem a.toNat (disassemble s.params.bigEndian w.bytes v) hm
  rw [length_disassemble] at this
  simp [State.load, State.inMemory, hin, this, assemble_disassemble]

/-- Bytes outside a store are kept. -/
theorem byteAt_store (s t : State) (w : Width) (a v : Word) (c : Nat) (hm : s.mem.wf = true)
    (h : s.store w a v = some t) (hc : c < a.toNat ∨ a.toNat + w.bytes ≤ c) : t.byteAt c = s.byteAt c := by
  obtain ⟨_, rfl⟩ := store_eq_some s t w a v h
  exact Memory.read_writeBytes_outside _ _ _ _ hm (by simpa using hc)

/-- A store keeps the canonical form and the bound of memory. -/
theorem store_keeps_wf (s t : State) (w : Width) (a v : Word) (h : s.store w a v = some t)
    (hm : s.mem.wf = true) : t.mem.wf = true := by
  obtain ⟨_, rfl⟩ := store_eq_some s t w a v h
  exact Memory.wf_writeBytes _ _ _ hm

theorem store_keeps_within (s t : State) (w : Width) (a v : Word) (h : s.store w a v = some t)
    (hm : s.mem.within s.params.memSize = true) : t.mem.within t.params.memSize = true := by
  obtain ⟨hin, rfl⟩ := store_eq_some s t w a v h
  exact Memory.within_writeBytes _ _ _ _ hm (by simpa using hin)

/-- What a store leaves: every field but memory. -/
theorem store_frame (s t : State) (w : Width) (a v : Word) (h : s.store w a v = some t) :
    t.regs = s.regs ∧ t.cpsr = s.cpsr ∧ t.spsrs = s.spsrs ∧ t.params = s.params ∧ t.result = s.result := by
  obtain ⟨_, rfl⟩ := store_eq_some s t w a v h
  exact ⟨rfl, rfl, rfl, rfl, rfl⟩

/-! ## Runs of words -/

/-- What a run of word writes leaves, whether or not one fails: every field but memory. -/
theorem storeMany_frame (l : List (Word × Word)) (s : State) :
    (s.storeMany l).1.regs = s.regs ∧ (s.storeMany l).1.cpsr = s.cpsr ∧ (s.storeMany l).1.spsrs = s.spsrs ∧
    (s.storeMany l).1.params = s.params ∧ (s.storeMany l).1.result = s.result := by
  induction l generalizing s with
  | nil => exact ⟨rfl, rfl, rfl, rfl, rfl⟩
  | cons p rest ih =>
    obtain ⟨a, v⟩ := p
    simp only [State.storeMany]
    split
    · exact ⟨rfl, rfl, rfl, rfl, rfl⟩
    · rename_i t ht
      have f := store_frame s t _ _ _ ht
      have g := ih t
      simp_all

theorem storeMany_keeps_wf (l : List (Word × Word)) (s : State) (h : s.mem.wf = true) :
    (s.storeMany l).1.mem.wf = true := by
  induction l generalizing s with
  | nil => exact h
  | cons p rest ih =>
    obtain ⟨a, v⟩ := p
    simp only [State.storeMany]
    split
    · exact h
    · rename_i t ht
      exact ih t (store_keeps_wf _ _ _ _ _ ht h)

theorem storeMany_keeps_within (l : List (Word × Word)) (s : State) (h : s.mem.within s.params.memSize = true) :
    (s.storeMany l).1.mem.within (s.storeMany l).1.params.memSize = true := by
  induction l generalizing s with
  | nil => exact h
  | cons p rest ih =>
    obtain ⟨a, v⟩ := p
    simp only [State.storeMany]
    split
    · exact h
    · rename_i t ht
      exact ih t (store_keeps_within _ _ _ _ _ ht h)

end Sys2Proof.Machine
end

