-- ==== Sys2Proof/Laws/Ops.lean ====
section
/-! SUPPORT. One lemma per shared operation of the meanings: what it answers, said once. -/

namespace Sys2Proof.Machine

/-! ## The frame of an instruction -/

theorem ifPasses_of_holds {s : State} {c : Cond} (k : Out) (h : condHolds c s.cpsr = true) : s.ifPasses c k = k := by
  simp [State.ifPasses, h]

theorem ifPasses_of_fails {s : State} {c : Cond} (k : Out) (h : condHolds c s.cpsr = false) :
    s.ifPasses c k = .next s := by
  simp [State.ifPasses, h]

/-- What a conditional instruction can answer. -/
theorem ifPasses_cases {s t : State} {c : Cond} {k : Out} (h : s.ifPasses c k = .next t) : t = s ∨ k = .next t := by
  unfold State.ifPasses at h; split at h
  · exact .inr h
  · cases h; exact .inl rfl

@[simp] theorem unlessUnpredictable_true (s : State) (k : Out) : s.unlessUnpredictable true k = .next s := rfl

@[simp] theorem unlessUnpredictable_false (s : State) (k : Out) : s.unlessUnpredictable false k = k := rfl

/-- What a routed instruction with UNPREDICTABLE conditions can answer. -/
theorem unlessUnpredictable_cases {s t : State} {u : Bool} {k : Out} (h : s.unlessUnpredictable u k = .next t) :
    t = s ∨ k = .next t := by
  cases u
  · exact .inr h
  · cases h; exact .inl rfl

@[simp] theorem orAbort_none {α : Type} (s : State) (k : α → State) : s.orAbort none k = .next s.raiseDataAbort := rfl

@[simp] theorem orAbort_some {α : Type} (s : State) (v : α) (k : α → State) : s.orAbort (some v) k = .next (k v) := rfl

/-- What a transfer can answer: the abort, or what follows the access. -/
theorem orAbort_cases {α : Type} {s t : State} {x : Option α} {k : α → State} (h : s.orAbort x k = .next t) :
    (x = none ∧ t = s.raiseDataAbort) ∨ ∃ v, x = some v ∧ t = k v := by
  cases x with
  | none => cases h; exact .inl ⟨rfl, rfl⟩
  | some v => cases h; exact .inr ⟨v, rfl, rfl⟩

theorem unrouted_architectural {s : State} (k : Out) (h : s.params.unrouted = .architectural) : s.unrouted k = k := by
  simp [State.unrouted, h]

/-- What an unrouted instruction whose condition has passed can answer. -/
theorem unrouted_cases {s t : State} {k : Out} (h : s.unrouted k = .next t) :
    (s.params.unrouted = .undefined ∧ t = s.raiseUndefined) ∨ (s.params.unrouted = .architectural ∧ k = .next t) := by
  unfold State.unrouted at h; split at h
  · cases h
  · rename_i e; cases h; exact .inl ⟨e, rfl⟩
  · rename_i e; exact .inr ⟨e, h⟩

/-! ## Exceptions -/

/-- Entering an exception forgets where the pc was and what the last result was. -/
@[simp] theorem enter_advance (s : State) (e : Cause) (r : Word) : s.advance.enter e r = s.enter e r := by
  have h : ∀ (b : RegBank) (c : RegCell) (v w x : Word), ((b.set .r15 v).set c w).set .r15 x = (b.set c w).set .r15 x := by
    intro b c v w x; cases c <;> rfl
  simp only [State.enter, State.advance, State.setPc, State.setCell]
  rw [h]

end Sys2Proof.Machine
end

