-- ==== Sys2Proof/Laws/Block.lean ====
section
/-! SUPPORT. The laws of the block transfers (R310–R319): the registers and slots of a list, and what a run of word reads,
a run of word writes and a run of register writes can do. -/

namespace Sys2Proof.Machine

/-! ## The registers of a list -/

theorem mem_regsOf (list : BitVec 16) (r : RegNo) : r ∈ regsOf list ↔ list.getLsbD r.toNat = true := by
  simp only [regsOf, List.mem_filterMap, List.mem_range]
  constructor
  · rintro ⟨i, hi, h⟩
    split at h
    · rename_i hl
      cases h
      simpa [BitVec.toNat_ofNat, Nat.mod_eq_of_lt hi] using hl
    · cases h
  · intro h
    exact ⟨r.toNat, r.isLt, by simp [h]⟩

/-- Registers numbered below `n`, in order. -/
theorem regsOf_prefix (list : BitVec 16) (n : Nat) :
    ((List.range n).filterMap fun i => if list.getLsbD i then some (BitVec.ofNat 4 i) else none).length =
      slotOf list n := by
  simp only [slotOf]
  induction n with
  | zero => rfl
  | succ n ih =>
    simp only [List.range_succ, List.filterMap_append, List.filter_append, List.length_append, ih]
    cases h : list.getLsbD n <;> simp [h]

theorem listCount_eq (list : BitVec 16) : listCount list = popcount list := regsOf_prefix list 16

theorem popcount_le (list : BitVec 16) : popcount list ≤ 16 := by
  have := List.length_filter_le (fun i => list.getLsbD i) (List.range 16)
  simpa [popcount] using this

/-- A register of the list stands at its slot (R319). -/
theorem regsOf_slotOf (list : BitVec 16) (r : RegNo) (h : list.getLsbD r.toNat = true) :
    (regsOf list)[slotOf list r.toNat]? = some r := by
  have hs : List.range 16 = List.range (r.toNat + 1) ++ (List.range (15 - r.toNat)).map (r.toNat + 1 + ·) := by
    have := r.isLt
    rw [← List.range_add]
    congr 1
    omega
  rw [regsOf, hs, List.filterMap_append, List.range_succ, List.filterMap_append]
  have hl := regsOf_prefix list r.toNat
  rw [List.append_assoc, List.getElem?_append_right (by omega), hl]
  simp [h]

theorem slotOf_lt (list : BitVec 16) (r : RegNo) (h : list.getLsbD r.toNat = true) :
    slotOf list r.toNat < popcount list := by
  have := regsOf_slotOf list r h
  rw [← listCount_eq]
  exact (List.getElem?_eq_some_iff.1 this).1

/-- Below the pc no register number is twice in the list. -/
theorem regsOf_pairwise (list : BitVec 16) : (regsOf list).Pairwise (fun a b => a.toNat < b.toNat) := by
  unfold regsOf
  rw [List.pairwise_filterMap]
  refine List.Pairwise.imp_of_mem ?_ (List.pairwise_lt_range (n := 16))
  intro i j hi hj hij a ha b hb
  simp only [List.mem_range] at hi hj
  split at ha <;> simp only [Option.some.injEq, reduceCtorEq] at ha
  split at hb <;> simp only [Option.some.injEq, reduceCtorEq] at hb
  subst ha hb
  simpa [BitVec.toNat_ofNat, Nat.mod_eq_of_lt hi, Nat.mod_eq_of_lt hj] using hij

/-! ## The slots (R310) -/

theorem slotAddrs_eq (start : Word) (n : Nat) :
    slotAddrs start n = (List.range n).map fun k => start + BitVec.ofNat 32 (4 * k) := by
  induction n generalizing start with
  | zero => rfl
  | succ n ih =>
    rw [slotAddrs, ih, List.range_succ_eq_map, List.map_cons, List.map_map]
    congr 1
    · simp
    · apply List.map_congr_left
      intro k _
      apply BitVec.eq_of_toNat_eq
      simp [BitVec.toNat_add, BitVec.toNat_ofNat]
      omega

theorem blockSlots_eq (md : BlockMode) (base : Word) (list : BitVec 16) :
    blockSlots md base list =
      (List.range (popcount list)).map fun k => startAddress md base list + BitVec.ofNat 32 (4 * k) := by
  rw [blockSlots, slotAddrs_eq, listCount_eq]

/-- The addresses a transfer accesses. -/
theorem blockSlots_aligned (md : BlockMode) (base : Word) (list : BitVec 16) :
    (blockSlots md base list).map wordAligned = (List.range (popcount list)).map (slotAddr md base list) := by
  rw [blockSlots_eq, List.map_map]; rfl

/-- `a AND 0xFFFFFFFC` is the multiple of four at or below `a` (R98). -/
theorem toNat_wordAligned (a : Word) : (wordAligned a).toNat = 4 * (a.toNat / 4) := by
  have h : wordAligned a = (a >>> 2) <<< 2 := by
    apply BitVec.eq_of_getLsbD_eq
    intro i hi
    have hc : (0xFFFFFFFC#32).getLsbD i = decide (2 ≤ i) := by
      have : ∀ i, i < 32 → (0xFFFFFFFC#32).getLsbD i = decide (2 ≤ i) := by decide
      exact this i hi
    simp only [wordAligned, BitVec.getLsbD_and, hc, BitVec.getLsbD_shiftLeft, BitVec.getLsbD_ushiftRight]
    by_cases h2 : 2 ≤ i
    · simp [hi, h2, show ¬ i < 2 by omega, show 2 + (i - 2) = i by omega]
    · simp [h2, show i < 2 by omega]
  rw [h]
  simp only [BitVec.toNat_shiftLeft, BitVec.toNat_ushiftRight, Nat.shiftRight_eq_div_pow, Nat.shiftLeft_eq]
  omega

/-- Two slots of a transfer do not overlap. -/
theorem slotAddr_disjoint (md : BlockMode) (base : Word) (list : BitVec 16) (j k : Nat) (hj : j < popcount list)
    (hk : k < popcount list) (h : j ≠ k) :
    (slotAddr md base list j).toNat + 4 ≤ (slotAddr md base list k).toNat ∨
      (slotAddr md base list k).toNat + 4 ≤ (slotAddr md base list j).toNat := by
  have hp := popcount_le list
  simp only [slotAddr, toNat_wordAligned, BitVec.toNat_add, BitVec.toNat_ofNat]
  omega

/-! ## A run of word reads -/

/-- A run of reads that all lie in memory gives their words. -/
theorem loadMany_eq_some (s : State) (as : List Word) (h : ∀ a, a ∈ as → s.inMemory .word (wordAligned a) = true) :
    ∃ vs, s.loadMany as = some vs ∧ as.map (fun a => s.load .word (wordAligned a)) = vs.map some := by
  induction as with
  | nil => exact ⟨[], rfl, rfl⟩
  | cons a as ih =>
    obtain ⟨vs, hvs, he⟩ := ih fun b hb => h b (List.mem_cons_of_mem _ hb)
    have ha := load_of_inMemory s .word (wordAligned a) (h a List.mem_cons_self)
    generalize assemble _ _ = v at ha
    exact ⟨v :: vs, by simp only [State.loadMany, ha, hvs, Option.map_some], by simp only [List.map_cons, ha, he]⟩

/-- A run of reads one of which does not lie in memory gives none. -/
theorem loadMany_eq_none (s : State) (as : List Word) (a : Word) (h : a ∈ as)
    (ha : s.inMemory .word (wordAligned a) = false) : s.loadMany as = none := by
  induction as with
  | nil => cases h
  | cons b as ih =>
    simp only [State.loadMany]
    split
    · rfl
    · rename_i v hv
      rcases List.mem_cons.1 h with rfl | h
      · rw [load_of_outside _ _ _ ha] at hv; cases hv
      · rw [ih h]; rfl

/-! ## A run of word writes -/

/-- A byte that no write of the run touches is kept. -/
theorem storeMany_byteAt (l : List (Word × Word)) (s : State) (hm : s.mem.wf = true) (b : Nat)
    (h : ∀ p, p ∈ l → b < (wordAligned p.1).toNat ∨ (wordAligned p.1).toNat + 4 ≤ b) :
    (s.storeMany l).1.byteAt b = s.byteAt b := by
  induction l generalizing s with
  | nil => rfl
  | cons p rest ih =>
    obtain ⟨a, v⟩ := p
    simp only [State.storeMany]
    split
    · rfl
    · rename_i t ht
      rw [ih t (store_keeps_wf _ _ _ _ _ ht hm) fun p hp => h p (List.mem_cons_of_mem _ hp)]
      exact byteAt_store _ _ _ _ _ _ hm ht (h (a, v) List.mem_cons_self)

/-- A load that no write of the run touches is kept. -/
theorem storeMany_load (l : List (Word × Word)) (s : State) (hm : s.mem.wf = true) (c : Word)
    (h : ∀ p, p ∈ l → c.toNat + 4 ≤ (wordAligned p.1).toNat ∨ (wordAligned p.1).toNat + 4 ≤ c.toNat) :
    (s.storeMany l).1.load .word c = s.load .word c := by
  have hp := (storeMany_frame l s).2.2.2.1
  simp only [State.load, State.inMemory, hp]
  rw [Memory.readBytes_congr s.mem (s.storeMany l).1.mem c.toNat Width.word.bytes fun b h1 h2 =>
    storeMany_byteAt l s hm b fun p hp => by
      have := h p hp
      simp only [Width.bytes] at h2
      omega]
  rfl

/-- A run of writes to slots that do not overlap and all lie in memory goes through, and each slot reads back. -/
theorem storeMany_all (l : List (Word × Word)) (s : State) (hm : s.mem.wf = true)
    (hin : ∀ p, p ∈ l → s.inMemory .word (wordAligned p.1) = true)
    (hd : l.Pairwise fun p q => (wordAligned p.1).toNat + 4 ≤ (wordAligned q.1).toNat ∨
      (wordAligned q.1).toNat + 4 ≤ (wordAligned p.1).toNat) :
    (s.storeMany l).2 = true ∧ ∀ p, p ∈ l → (s.storeMany l).1.load .word (wordAligned p.1) = some p.2 := by
  induction l generalizing s with
  | nil => exact ⟨rfl, fun p hp => absurd hp List.not_mem_nil⟩
  | cons p rest ih =>
    obtain ⟨a, v⟩ := p
    have ha := store_of_inMemory s .word (wordAligned a) v (hin (a, v) List.mem_cons_self)
    generalize ht : ({ s with mem := _ } : State) = t at ha
    have hp : t.params = s.params := (store_frame _ _ _ _ _ ha).2.2.2.1
    have hw := store_keeps_wf _ _ _ _ _ ha hm
    rw [List.pairwise_cons] at hd
    have h := ih t hw (fun q hq => by
      have := hin q (List.mem_cons_of_mem _ hq)
      simpa [State.inMemory, hp] using this) hd.2
    simp only [State.storeMany, ha]
    refine ⟨h.1, fun q hq => ?_⟩
    rcases List.mem_cons.1 hq with rfl | hq
    · rw [storeMany_load rest t hw (wordAligned a) fun q hq => hd.1 q hq]
      exact load_store _ _ _ _ _ hm ha
    · exact h.2 q hq

/-- A run whose first part goes through and whose next write does not lie in memory ends there, with the first part
written. -/
theorem storeMany_stops (l r : List (Word × Word)) (p : Word × Word) (s : State) (h : (s.storeMany l).2 = true)
    (hp : s.inMemory .word (wordAligned p.1) = false) :
    s.storeMany (l ++ p :: r) = ((s.storeMany l).1, false) := by
  induction l generalizing s with
  | nil => obtain ⟨a, v⟩ := p; simp only [List.nil_append, State.storeMany, store_of_outside _ _ _ _ hp]
  | cons q l ih =>
    obtain ⟨a, v⟩ := q
    simp only [State.storeMany, List.cons_append] at h ⊢
    split at h
    · cases h
    · rename_i t ht
      refine ih t h ?_
      simpa [State.inMemory, (store_frame _ _ _ _ _ ht).2.2.2.1] using hp

/-! ## A run of register writes -/

/-- What a run of register writes leaves: all but the register cells. -/
theorem writeLoaded_frame (m : Mode) (l : List (RegNo × Word)) (s : State) :
    let t := writeLoaded (fun u r v => u.setCell (slot m r) v) s l
    t.cpsr = s.cpsr ∧ t.spsrs = s.spsrs ∧ t.mem = s.mem ∧ t.params = s.params ∧ t.result = s.result := by
  induction l generalizing s with
  | nil => exact ⟨rfl, rfl, rfl, rfl, rfl⟩
  | cons p rest ih =>
    obtain ⟨r, v⟩ := p
    simp only [writeLoaded]
    split
    · exact ih s
    · exact ih (s.setCell (slot m r) v)

/-- A cell that no register of the run names is kept. -/
theorem writeLoaded_getCell (m : Mode) (l : List (RegNo × Word)) (s : State) (d : RegCell)
    (h : ∀ p, p ∈ l → p.1 = 15#4 ∨ d ≠ slot m p.1) :
    (writeLoaded (fun u r v => u.setCell (slot m r) v) s l).getCell d = s.getCell d := by
  induction l generalizing s with
  | nil => rfl
  | cons p rest ih =>
    obtain ⟨r, v⟩ := p
    have hr := fun q hq => h q (List.mem_cons_of_mem _ hq)
    simp only [writeLoaded]
    split
    · exact ih s hr
    · rename_i h15
      rw [ih _ hr]
      have := (h (r, v) List.mem_cons_self).resolve_left h15
      simp [this]

/-- Every register of the run but R15 takes its value, where no register is in it twice. -/
theorem writeLoaded_value (m : Mode) (l : List (RegNo × Word)) (s : State) (r : RegNo) (v : Word) (h15 : r ≠ 15#4)
    (hd : l.Pairwise fun p q => p.1 ≠ q.1) (h : (r, v) ∈ l) :
    (writeLoaded (fun u r v => u.setCell (slot m r) v) s l).getCell (slot m r) = v := by
  induction l generalizing s with
  | nil => exact absurd h List.not_mem_nil
  | cons p rest ih =>
    obtain ⟨q, w⟩ := p
    rw [List.pairwise_cons] at hd
    simp only [writeLoaded]
    rcases List.mem_cons.1 h with e | h
    · cases e
      rw [if_neg h15, writeLoaded_getCell]
      · simp
      · intro p hp
        exact .inr fun e => hd.1 p hp ((slot_inj ..).1 e)
    · exact ih _ hd.2 h

/-- In a run of `setX` the mode is the same throughout, so that every write goes to the bank of the first state. -/
theorem writeLoaded_setX (l : List (RegNo × Word)) (s : State) :
    writeLoaded State.setX s l = writeLoaded (fun u r v => u.setCell (slot s.mode r) v) s l := by
  induction l generalizing s with
  | nil => rfl
  | cons p rest ih =>
    obtain ⟨r, v⟩ := p
    simp only [writeLoaded]
    split
    · exact ih s
    · exact ih (s.setX r v)

end Sys2Proof.Machine
end

