-- ==== Sys2Proof/Laws/Exec.lean ====
section
/-! SUPPORT. What an instruction can do, said once (`exec_ends`): an ordinary effect in the current mode, an effect that only
a privileged mode has, the halt, an exception entry, or the refusal of an unrouted instruction. The whole-machine rules
follow from this lemma with no meaning unfolded again. -/

namespace Sys2Proof.Machine

/-! ## The four effects -/

/-- Memory after is in canonical form and inside the array if memory before is. -/
def keepsMem (s t : State) : Prop :=
  (s.mem.wf = true → t.mem.wf = true) ∧
  (s.mem.within s.params.memSize = true → t.mem.within t.params.memSize = true)

/-- An effect that any mode may have: cells of the current mode's bank, N, Z, C, V and T, and memory. -/
structure Quiet (s t : State) : Prop where
  cells : ∀ d, (∀ r, d ≠ slot s.mode r) → t.getCell d = s.getCell d
  status : ∀ j, j < 28 → j ≠ 5 → bit t.cpsr j = bit s.cpsr j
  spsrs : t.spsrs = s.spsrs
  params : t.params = s.params
  result : t.result = s.result
  mem : keepsMem s t

/-- An effect that only a privileged mode has: the mode, the SPSRs and the User bank may change too. -/
structure Privileged (s t : State) : Prop where
  mode : s.mode ≠ .usr
  legal : legalMode s.cpsr = true → legalMode t.cpsr = true
  reserved : ∀ k, reservedAre k s → reservedAre k t
  params : t.params = s.params
  result : t.result = s.result
  mem : keepsMem s t

/-- An exception entry, after the completed memory writes of an instruction that stores several words. -/
def Excepted (i : Instr) (s t : State) : Prop :=
  ∃ (m : Memory) (e : Cause), t = State.enter e (syncReturn e s) { s with mem := m } ∧ keepsMem s { s with mem := m } ∧
    (storesSeveral i = false → m = s.mem) ∧ e ≠ .reset ∧ e ≠ .interrupt ∧ e ≠ .fastInterrupt

/-- What an instruction can leave. -/
def Effect (i : Instr) (s t : State) : Prop :=
  Quiet s t ∨ Privileged s t ∨ (t = s.halt ∧ ∃ c, i = .swiHalt c ∧ condHolds c s.cpsr = true) ∨ Excepted i s t

/-- What an instruction can answer. -/
def Ends (i : Instr) (s : State) (o : Out) : Prop :=
  match o with
  | .next t => Effect i s t
  | .fault _ => False
  | .refused r =>
    r = .unrouted ∧ i.isUnrouted = true ∧ s.params.unrouted = .refuse ∧
      ∃ c, i.cond? = some c ∧ condHolds c s.cpsr = true

theorem keepsMem_refl (s : State) : keepsMem s s := ⟨id, id⟩

theorem keepsMem_of_eq {s t : State} (h : t.mem = s.mem) (h' : t.params = s.params) : keepsMem s t := by
  simp [keepsMem, h, h']

theorem keepsMem_trans {s t u : State} (h : keepsMem s t) (h' : keepsMem t u) : keepsMem s u :=
  ⟨h'.1 ∘ h.1, h'.2 ∘ h.2⟩

theorem keepsMem_store {s t : State} {w : Width} {a v : Word} (h : s.store w a v = some t) : keepsMem s t :=
  ⟨store_keeps_wf _ _ _ _ _ h, store_keeps_within _ _ _ _ _ h⟩

theorem Quiet.refl (s : State) : Quiet s s :=
  ⟨fun _ _ => rfl, fun _ _ _ => rfl, rfl, rfl, rfl, keepsMem_refl s⟩

/-- Two PSRs that agree below bit 28, T apart, name the same mode. -/
theorem modeField_of_status {p q : Psr} (h : ∀ j, j < 28 → j ≠ 5 → bit q j = bit p j) : modeField q = modeField p := by
  rw [modeField, modeField, bits_eq_iff]; intro i hi; exact h _ (by omega) (by omega)

theorem reservedField_of_status {p q : Psr} (h : ∀ j, j < 28 → j ≠ 5 → bit q j = bit p j) :
    reservedField q = reservedField p := by
  rw [reservedField, reservedField, bits_eq_iff]; intro i hi; exact h _ (by omega) (by omega)

theorem Quiet.mode {s t : State} (h : Quiet s t) : t.mode = s.mode := by
  simp [State.mode, State.mode?, modeField_of_status h.status]

theorem Quiet.trans {s t u : State} (h : Quiet s t) (h' : Quiet t u) : Quiet s u where
  cells d hd := (h'.cells d (by simpa [h.mode] using hd)).trans (h.cells d hd)
  status j hj hj' := (h'.status j hj hj').trans (h.status j hj hj')
  spsrs := h'.spsrs.trans h.spsrs
  params := h'.params.trans h.params
  result := h'.result.trans h.result
  mem := keepsMem_trans h.mem h'.mem

/-! ## The ordinary operations are quiet -/

theorem quiet_setX (s : State) (i : RegNo) (v : Word) : Quiet s (s.setX i v) where
  cells d hd := by simp [hd i]
  status _ _ _ := rfl
  spsrs := rfl
  params := rfl
  result := rfl
  mem := keepsMem_of_eq rfl rfl

theorem quiet_setPc (s : State) (v : Word) : Quiet s (s.setPc v) := quiet_setX s 15#4 v

theorem quiet_setCpsr (s : State) (p : Psr) (h : ∀ j, j < 28 → j ≠ 5 → bit p j = bit s.cpsr j) :
    Quiet s (s.setCpsr p) where
  cells _ _ := rfl
  status := h
  spsrs := rfl
  params := rfl
  result := rfl
  mem := keepsMem_of_eq rfl rfl

theorem quiet_setFlags (s : State) (r : AluResult) : Quiet s (s.setFlags r) :=
  quiet_setCpsr _ _ fun j hj _ => by
    rw [bit_setNZCV]
    simp [show j ≠ 28 by omega, show j ≠ 29 by omega, show j ≠ 30 by omega, show j ≠ 31 by omega]

theorem quiet_setT (s : State) (b : Bool) : Quiet s (s.setT b) :=
  quiet_setCpsr _ _ fun j _ hj' => by rw [bit_setThumb]; simp [hj']

theorem quiet_branchExchange (s : State) (v : Word) : Quiet s (s.branchExchange v) :=
  (quiet_setT s _).trans (quiet_setPc _ _)

theorem quiet_branchToggle (s : State) (v : Word) : Quiet s (s.branchToggle v) :=
  (quiet_setT s _).trans (quiet_setPc _ _)

theorem quiet_writeBack (s : State) (i : Index) (rn : RegNo) (nb : Word) : Quiet s (s.writeBack i rn nb) := by
  unfold State.writeBack; split
  · exact quiet_setX ..
  · exact .refl s

theorem quiet_blockWriteBack (s : State) (w : Bool) (rn : RegNo) (b : Word) : Quiet s (s.blockWriteBack w rn b) := by
  unfold State.blockWriteBack; split
  · exact quiet_setX ..
  · exact .refl s

theorem quiet_writeLoaded (s : State) (l : List (RegNo × Word)) : Quiet s (writeLoaded State.setX s l) := by
  induction l generalizing s with
  | nil => exact .refl s
  | cons p l ih =>
    obtain ⟨r, v⟩ := p
    refine .trans ?_ (ih _)
    split
    · exact .refl s
    · exact quiet_setX ..

theorem quiet_store {s t : State} {w : Width} {a v : Word} (h : s.store w a v = some t) : Quiet s t := by
  obtain ⟨hr, hc, hs, hp, he⟩ := store_frame s t w a v h
  exact ⟨fun d _ => by simp [State.getCell, hr], fun _ _ _ => by rw [hc], hs, hp, he, keepsMem_store h⟩

theorem quiet_storeMany (s : State) (l : List (Word × Word)) : Quiet s (s.storeMany l).1 := by
  obtain ⟨hr, hc, hs, hp, he⟩ := storeMany_frame l s
  exact ⟨fun d _ => by simp [State.getCell, hr], fun _ _ _ => by rw [hc], hs, hp, he,
    storeMany_keeps_wf l s, storeMany_keeps_within l s⟩

theorem quiet_writeResult (s : State) (sf : Bool) (rd : RegNo) (r : AluResult) : Quiet s (s.writeResult sf rd r) := by
  unfold State.writeResult; split
  · exact (quiet_setX ..).trans (quiet_setFlags ..)
  · exact quiet_setX ..

theorem quiet_mulFlags (s : State) (sf : Bool) (v : Word) : Quiet s (s.mulFlags sf v) := by
  unfold State.mulFlags; split
  · exact quiet_setCpsr _ _ fun j hj _ => by
      rw [bit_setNZ]; simp [show j ≠ 30 by omega, show j ≠ 31 by omega]
  · exact .refl s

theorem quiet_writeLong (s : State) (sf : Bool) (hi lo : RegNo) (p : BitVec 64) : Quiet s (s.writeLong sf hi lo p) := by
  unfold State.writeLong
  have h := (quiet_setX s lo (p.extractLsb' 0 32)).trans (quiet_setX _ hi (p.extractLsb' 32 32))
  dsimp only
  split
  · refine h.trans (quiet_setCpsr _ _ fun j hj _ => ?_)
    rw [bit_setNZLong]; simp [show j ≠ 30 by omega, show j ≠ 31 by omega]
  · exact h

/-! ## The privileged operations -/

/-- A mode that has an SPSR is privileged (R50). -/
theorem mode_of_spsr {s : State} {p : Psr} (h : s.spsr? = some p) : s.mode ≠ .usr := by
  intro e; simp [State.spsr?, e, SpsrBank.get?] at h

/-- The reserved bits of the SPSR read are those of the bank. -/
theorem reserved_of_spsr {s : State} {p : Psr} {k : BitVec 20} (h : s.spsr? = some p) (hk : reservedAre k s) :
    reservedField p = k := by
  obtain ⟨-, h1, h2, h3, h4, h5⟩ := hk
  unfold State.spsr? at h
  cases hm : s.mode <;> rw [hm] at h <;> simp [SpsrBank.get?] at h <;> subst h <;> assumption

theorem reservedAre_congr {s t : State} {k : BitVec 20} (hc : t.cpsr = s.cpsr) (hs : t.spsrs = s.spsrs)
    (h : reservedAre k s) : reservedAre k t := by simpa [reservedAre, hc, hs] using h

theorem reservedAre_set {s : State} {k : BitVec 20} (m : Mode) (p : Psr) (hp : reservedField p = k)
    (h : reservedAre k s) (t : State) (hc : t.cpsr = s.cpsr) (hs : t.spsrs = s.spsrs.set m p) : reservedAre k t := by
  obtain ⟨h0, h1, h2, h3, h4, h5⟩ := h
  simp only [reservedAre, hc, hs]
  cases m <;> simp [SpsrBank.set, *]

theorem reserved_of_quiet {s t : State} {k : BitVec 20} (q : Quiet s t) (h : reservedAre k s) : reservedAre k t := by
  obtain ⟨h0, h'⟩ := h
  refine ⟨(reservedField_of_status q.status).trans h0, ?_⟩
  rw [q.spsrs]; exact h'

/-- A restore of the CPSR from the SPSR, after quiet effects and before a branch. -/
theorem privileged_return {s t : State} {saved : Psr} {v : Word} (q : Quiet s t) (h : s.spsr? = some saved)
    (hl : legalMode saved = true) : Privileged s (t.returnFrom saved v) where
  mode := mode_of_spsr h
  legal _ := hl
  reserved k hk := by
    refine ⟨reserved_of_spsr h hk, ?_⟩
    simpa [q.spsrs] using hk.2
  params := q.params
  result := q.result
  mem := keepsMem_trans q.mem (keepsMem_of_eq rfl rfl)

theorem Privileged.then_quiet {s t u : State} (p : Privileged s t) (q : Quiet t u) : Privileged s u where
  mode := p.mode
  legal h := by
    have := p.legal h
    simpa [legalMode, modeField_of_status q.status] using this
  reserved k h := reserved_of_quiet q (p.reserved k h)
  params := q.params.trans p.params
  result := q.result.trans p.result
  mem := keepsMem_trans p.mem q.mem

theorem privileged_writeUser (s : State) (l : List (RegNo × Word)) (h : s.mode ≠ .usr) :
    Privileged s (writeLoaded State.setXUsr s l) := by
  have f : ∀ (l : List (RegNo × Word)) (t : State), (writeLoaded State.setXUsr t l).cpsr = t.cpsr ∧
      (writeLoaded State.setXUsr t l).spsrs = t.spsrs ∧ (writeLoaded State.setXUsr t l).mem = t.mem ∧
      (writeLoaded State.setXUsr t l).params = t.params ∧ (writeLoaded State.setXUsr t l).result = t.result := by
    intro l; induction l with
    | nil => intro t; exact ⟨rfl, rfl, rfl, rfl, rfl⟩
    | cons p l ih =>
      intro t; obtain ⟨r, v⟩ := p
      have := ih (if r = 15#4 then t else t.setXUsr r v)
      simp only [writeLoaded]
      split <;> simp_all
  obtain ⟨hc, hs, hm, hp, he⟩ := f l s
  exact ⟨h, fun h => by rw [hc]; exact h, fun k hk => reservedAre_congr hc hs hk, hp, he, keepsMem_of_eq hm hp⟩

/-! ## What the shared operations of the meanings can answer -/

variable {i : Instr} {s : State}

theorem ends_next {t : State} (h : Quiet s t) : Ends i s (.next t) := .inl h

theorem ends_privileged {t : State} (h : Privileged s t) : Ends i s (.next t) := .inr (.inl h)

theorem ends_enter (e : Cause) (h : e ≠ .reset ∧ e ≠ .interrupt ∧ e ≠ .fastInterrupt) :
    Ends i s (.next (s.enter e (syncReturn e s))) :=
  .inr (.inr (.inr ⟨s.mem, e, rfl, keepsMem_refl _, fun _ => rfl, h⟩))

theorem ends_undefined : Ends i s (.next s.raiseUndefined) := ends_enter .undefinedInstruction (by decide)

theorem ends_abort : Ends i s (.next s.raiseDataAbort) := ends_enter .dataAbort (by decide)

theorem ends_ifPasses {c : Cond} {k : Out} (h : Ends i s k) : Ends i s (s.ifPasses c k) := by
  unfold State.ifPasses; split
  · exact h
  · exact ends_next (.refl s)

theorem ends_unless {u : Bool} {k : Out} (h : Ends i s k) : Ends i s (s.unlessUnpredictable u k) := by
  unfold State.unlessUnpredictable; split
  · exact ends_next (.refl s)
  · exact h

theorem ends_orAbort {α : Type} {x : Option α} {k : α → State} (h : ∀ v, x = some v → Quiet s (k v)) :
    Ends i s (s.orAbort x k) := by
  cases x with
  | none => exact ends_abort
  | some v => exact ends_next (h v rfl)

theorem ends_unrouted {c : Cond} {k : Out} (hu : i.isUnrouted = true) (hc : i.cond? = some c) (h : Ends i s k) :
    Ends i s (s.ifPasses c (s.unrouted k)) := by
  unfold State.ifPasses; split
  · rename_i hp
    unfold State.unrouted; split
    · rename_i e; exact ⟨rfl, hu, e, c, hc, hp⟩
    · exact ends_undefined
    · exact h
  · exact ends_next (.refl s)

theorem ends_dpWrite (sf : Bool) (rd : RegNo) (r : AluResult) : Ends i s (dpWrite s sf rd r) := by
  unfold dpWrite; split
  · split
    · rename_i saved h
      cases hl : legalMode saved
      · exact ends_next (.refl s)
      · exact ends_privileged (privileged_return (.refl s) h hl)
    · exact ends_next (quiet_writeResult ..)
  · exact ends_next (quiet_writeResult ..)

theorem ends_dpCompare (r : AluResult) : Ends i s (dpCompare s r) := ends_next (quiet_setFlags ..)

theorem ends_ldrWith (x : Index) (u : Bool) (rn rd : RegNo) (off : Word) : Ends i s (ldrWith s x u rn rd off) :=
  ends_orAbort fun v _ => by
    split
    · exact (quiet_writeBack ..).trans (quiet_branchExchange ..)
    · exact (quiet_writeBack ..).trans (quiet_setX ..)

theorem ends_ldrbWith (x : Index) (u : Bool) (rn rd : RegNo) (off : Word) : Ends i s (ldrbWith s x u rn rd off) :=
  ends_orAbort fun _ _ => (quiet_writeBack ..).trans (quiet_setX ..)

theorem ends_strWith (x : Index) (u : Bool) (rn rd : RegNo) (off : Word) : Ends i s (strWith s x u rn rd off) :=
  ends_orAbort fun _ h => (quiet_store h).trans (quiet_writeBack ..)

theorem ends_strbWith (x : Index) (u : Bool) (rn rd : RegNo) (off : Word) : Ends i s (strbWith s x u rn rd off) :=
  ends_orAbort fun _ h => (quiet_store h).trans (quiet_writeBack ..)

theorem ends_loadMiscWith (w : Width) (f : Word → Word) (x : Index) (u : Bool) (rn rd : RegNo) (off : Word) :
    Ends i s (loadMiscWith s w f x u rn rd off) :=
  ends_unless (ends_orAbort fun _ _ => (quiet_writeBack ..).trans (quiet_setX ..))

theorem ends_strhWith (x : Index) (u : Bool) (rn rd : RegNo) (off : Word) : Ends i s (strhWith s x u rn rd off) :=
  ends_unless (ends_orAbort fun _ h => (quiet_store h).trans (quiet_writeBack ..))

theorem ends_ldrdWith (x : Index) (u : Bool) (rn rd : RegNo) (off : Word) : Ends i s (ldrdWith s x u rn rd off) :=
  ends_unless (ends_orAbort fun _ _ => ((quiet_writeBack ..).trans (quiet_setX ..)).trans (quiet_setX ..))

/-- The abort of a state that only its memory tells from the entry state. -/
theorem ends_abort_after {t : State} (hm : storesSeveral i = true) (hr : t.regs = s.regs) (hc : t.cpsr = s.cpsr)
    (hs : t.spsrs = s.spsrs) (hp : t.params = s.params) (he : t.result = s.result) (hk : keepsMem s t) :
    Ends i s (.next t.raiseDataAbort) := by
  have e : t = { s with mem := t.mem } := by
    cases t; cases s; simp_all
  refine .inr (.inr (.inr ⟨t.mem, .dataAbort, ?_, by rw [← e]; exact hk, fun h => by simp [hm] at h, by decide⟩))
  have hi : t.ia = s.ia := by simp [State.ia, State.pc, State.getCell, hr]
  rw [← e]; simp [State.raiseDataAbort, syncReturn, hi]

theorem ends_strdWith (hm : storesSeveral i = true) (x : Index) (u : Bool) (rn rd : RegNo) (off : Word) :
    Ends i s (strdWith s x u rn rd off) := by
  refine ends_unless ?_
  split
  · exact ends_abort
  · rename_i t ht
    obtain ⟨hr, hc, hs, hp, he⟩ := store_frame _ _ _ _ _ ht
    cases h2 : t.store .word (transferAddr x (s.x rn) (newBase u (s.x rn) off) + 4#32) (s.x (rd + 1#4)) with
    | none => exact ends_abort_after hm hr hc hs hp he (keepsMem_store ht)
    | some t' => exact ends_next (((quiet_store ht).trans (quiet_store h2)).trans (quiet_writeBack ..))

theorem ends_storeBlock (hm : storesSeveral i = true) (md : BlockMode) (rn : RegNo) (list : BitVec 16)
    (read : RegNo → Word) (k : State → State) (hk : ∀ t, Quiet t (k t)) :
    Ends i s (s.storeBlock md rn list read k) := by
  unfold State.storeBlock
  have q := quiet_storeMany s ((blockSlots md (s.x rn) list).zip ((regsOf list).map read))
  obtain ⟨hr, hc, hs, hp, he⟩ := storeMany_frame ((blockSlots md (s.x rn) list).zip ((regsOf list).map read)) s
  split
  · rename_i t h; rw [h] at q; exact ends_next (q.trans (hk t))
  · rename_i t h; rw [h] at q hr hc hs hp he; exact ends_abort_after hm hr hc hs hp he q.mem

theorem ends_swap (rd : RegNo) (read : Option Word) (w : Width) (a v : Word) :
    Ends i s (s.swap rd read (s.store w a v)) := by
  unfold State.swap; split
  · exact ends_abort
  · exact ends_orAbort fun _ h => (quiet_store h).trans (quiet_setX ..)

theorem ends_msrCpsr (m : BitVec 4) (o : Word) : Ends i s (msrCpsr s m o) := by
  have hw : ∀ (k : Mode) (j : Nat), 8 ≤ j → j < 28 → bit (byteMask m &&& cpsrWritable k) j = false := by
    intro k j h1 h2
    have : bit (cpsrWritable k) j = false := by
      have : ∀ j, j < 28 → 8 ≤ j → bit (cpsrWritable k) j = false := by cases k <;> decide
      exact this j h2 h1
    simp only [bit] at this ⊢
    rw [BitVec.getLsbD_and, this, Bool.and_false]
  cases hu : s.unpredictableMsr m o
  case true => simp only [msrCpsr, hu]; exact ends_next (.refl s)
  simp only [msrCpsr, hu, unlessUnpredictable_false]
  by_cases hm : s.mode = .usr
  · refine ends_next (quiet_setCpsr _ _ fun j hj _ => ?_)
    have : bit (cpsrWritable .usr) j = false := by
      have : ∀ j, j < 28 → bit (cpsrWritable .usr) j = false := by decide
      exact this j hj
    have : bit (byteMask m &&& cpsrWritable s.mode) j = false := by
      rw [hm]; simp only [bit] at this ⊢; rw [BitVec.getLsbD_and, this, Bool.and_false]
    rw [bit_maskedWrite, this]; rfl
  · refine ends_privileged ⟨hm, fun hl => ?_, fun k hk => ?_, rfl, rfl, keepsMem_of_eq rfl rfl⟩
    · have hp : s.mode.privileged = true := by
        cases h : s.mode <;> simp_all [Mode.privileged]
      cases h0 : m.getLsbD 0
      · have : modeField (s.setCpsr (maskedWrite s.cpsr o (byteMask m &&& cpsrWritable s.mode))).cpsr =
            modeField s.cpsr := by
          rw [modeField, modeField, bits_eq_iff]; intro j hj
          have hb : ∀ j, j < 5 → bit (byteMask m) (0 + j) = false := by
            have : ∀ m : BitVec 4, m.getLsbD 0 = false → ∀ j, j < 5 → bit (byteMask m) (0 + j) = false := by decide
            exact this m h0
          have hb := hb j hj
          have : bit (byteMask m &&& cpsrWritable s.mode) (0 + j) = false := by
            simp only [bit] at hb ⊢; rw [BitVec.getLsbD_and, hb, Bool.false_and]
          rw [setCpsr_cpsr, bit_maskedWrite, this]; rfl
        unfold legalMode; rw [this]; exact hl
      · have hlo : legalMode o = true := by
          simp only [State.unpredictableMsr, hp, h0, Bool.true_and] at hu
          cases h : legalMode o <;> simp_all
        have : modeField (s.setCpsr (maskedWrite s.cpsr o (byteMask m &&& cpsrWritable s.mode))).cpsr =
            modeField o := by
          rw [modeField, modeField, bits_eq_iff]; intro j hj
          have hb : bit (byteMask m) (0 + j) = true := by
            have : ∀ m : BitVec 4, m.getLsbD 0 = true → ∀ j, j < 5 → bit (byteMask m) (0 + j) = true := by decide
            exact this m h0 j hj
          have hc : bit (cpsrWritable s.mode) (0 + j) = true := by
            have : ∀ k : Mode, k.privileged = true → ∀ j, j < 5 → bit (cpsrWritable k) (0 + j) = true := by
              intro k; cases k <;> decide
            exact this _ hp j hj
          have : bit (byteMask m &&& cpsrWritable s.mode) (0 + j) = true := by
            simp only [bit] at hb hc ⊢; rw [BitVec.getLsbD_and, hb, hc]; rfl
          rw [setCpsr_cpsr, bit_maskedWrite, this]; rfl
        unfold legalMode; rw [this]; exact hlo
    · obtain ⟨h0, h'⟩ := hk
      refine ⟨?_, h'⟩
      rw [← h0, reservedField, reservedField, bits_eq_iff]; intro j hj
      rw [setCpsr_cpsr, bit_maskedWrite, hw _ _ (by omega) (by omega)]; rfl

theorem ends_msrSpsr (m : BitVec 4) (o : Word) : Ends i s (msrSpsr s m o) := by
  unfold msrSpsr; split
  · exact ends_next (.refl s)
  · rename_i p h
    refine ends_privileged ⟨mode_of_spsr h, fun hl => hl, fun k hk => ?_, rfl, rfl, keepsMem_of_eq rfl rfl⟩
    refine reservedAre_set s.mode _ ?_ hk _ rfl rfl
    rw [← reserved_of_spsr h hk, reservedField, reservedField, bits_eq_iff]; intro j hj
    have hc : bit (userMask ||| privMask ||| stateMask) (8 + j) = false := by
      have : ∀ j, j < 20 → bit (userMask ||| privMask ||| stateMask) (8 + j) = false := by decide
      exact this j hj
    have : bit (byteMask m &&& (userMask ||| privMask ||| stateMask)) (8 + j) = false := by
      simp only [bit] at hc ⊢; rw [BitVec.getLsbD_and, hc, Bool.and_false]
    rw [bit_maskedWrite, this]; rfl

/-! ## Every instruction -/

theorem ends_ldm1 (c : Cond) (md : BlockMode) (w : Bool) (rn : RegNo) (list : BitVec 16) :
    Ends i s (execLdm1 c md w rn list s) := by
  refine ends_ifPasses (ends_unless (ends_orAbort fun vals _ => ?_))
  have q := (quiet_writeLoaded s ((regsOf list).zip vals)).trans
    (quiet_blockWriteBack _ w rn (blockNewBase md (s.x rn) list))
  split
  · exact q.trans (quiet_branchToggle ..)
  · exact q

theorem ends_ldm2 (c : Cond) (md : BlockMode) (w : Bool) (rn : RegNo) (list : BitVec 16) :
    Ends i s (execLdm2 c md w rn list s) := by
  refine ends_ifPasses ?_
  cases hu : s.inUsrOrSys
  · have hm : s.mode ≠ .usr := by intro e; simp [State.inUsrOrSys, e] at hu
    refine ends_unless ?_
    cases s.loadBlock md rn list with
    | none => exact ends_abort
    | some vals => exact ends_privileged (privileged_writeUser _ _ hm)
  · simp only [Bool.or_true, Bool.true_or, unlessUnpredictable_true]; exact ends_next (.refl s)

theorem ends_ldm3 (c : Cond) (md : BlockMode) (w : Bool) (rn : RegNo) (list : BitVec 16) :
    Ends i s (execLdm3 c md w rn list s) := by
  refine ends_ifPasses (ends_unless ?_)
  split
  · exact ends_abort
  · exact ends_next (.refl s)
  · rename_i vals saved _ h
    cases hl : legalMode saved
    · exact ends_next (.refl s)
    · exact ends_privileged ((privileged_return ((quiet_writeLoaded s ((regsOf list).zip vals)).trans
        (quiet_blockWriteBack _ w rn (blockNewBase md (s.x rn) list))) h hl).then_quiet (quiet_branchToggle ..))

theorem ends_stm1 (hm : storesSeveral i = true) (c : Cond) (md : BlockMode) (w : Bool) (rn : RegNo)
    (list : BitVec 16) : Ends i s (execStm1 c md w rn list s) :=
  ends_ifPasses (ends_unless (ends_storeBlock hm _ _ _ _ _ fun _ => quiet_blockWriteBack ..))

theorem ends_stm2 (hm : storesSeveral i = true) (c : Cond) (md : BlockMode) (w : Bool) (rn : RegNo)
    (list : BitVec 16) : Ends i s (execStm2 c md w rn list s) :=
  ends_ifPasses (ends_unless (ends_storeBlock hm _ _ _ _ _ fun t => Quiet.refl t))

theorem ends_mrsSpsr (c : Cond) (rd : RegNo) : Ends i s (execMrsSpsr c rd s) := by
  refine ends_ifPasses (ends_unless ?_)
  split
  · exact ends_next (.refl s)
  · exact ends_next (quiet_setX ..)

/-- What an instruction can answer, for every instruction and state. -/
theorem exec_ends (i : Instr) (s : State) : Ends i s (exec i s) := by
  cases i
  case swiHalt c =>
    show Ends _ s (execSwiHalt c s)
    unfold execSwiHalt State.ifPasses; split
    · rename_i h; exact .inr (.inr (.inl ⟨rfl, c, rfl, h⟩))
    · exact ends_next (.refl s)
  case swi => exact ends_ifPasses (ends_enter .softwareInterrupt (by decide))
  case bkpt => exact ends_unrouted rfl rfl (ends_unless (ends_enter .prefetchAbort (by decide)))
  case ldm1 => exact ends_ldm1 ..
  case ldm2 => exact ends_ldm2 ..
  case ldm3 => exact ends_ldm3 ..
  case stm1 => exact ends_stm1 rfl ..
  case stm2 => exact ends_stm2 rfl ..
  case mrsSpsr => exact ends_mrsSpsr ..
  case mrsCpsr => exact ends_ifPasses (ends_unless (ends_next (quiet_setX ..)))
  case msrCpsrReg => exact ends_ifPasses (ends_unless (ends_msrCpsr ..))
  case msrSpsrReg => exact ends_ifPasses (ends_unless (ends_msrSpsr ..))
  case msrCpsrImm => exact ends_ifPasses (ends_msrCpsr ..)
  case msrSpsrImm => exact ends_ifPasses (ends_msrSpsr ..)
  case b => exact ends_ifPasses (ends_next (quiet_setPc ..))
  case bl => exact ends_ifPasses (ends_next ((quiet_setX ..).trans (quiet_setPc ..)))
  case mul => exact ends_unrouted rfl rfl (ends_unless (ends_next ((quiet_setX ..).trans (quiet_mulFlags ..))))
  case mla => exact ends_unrouted rfl rfl (ends_unless (ends_next ((quiet_setX ..).trans (quiet_mulFlags ..))))
  case umull => exact ends_unrouted rfl rfl (ends_unless (ends_next (quiet_writeLong ..)))
  case umlal => exact ends_unrouted rfl rfl (ends_unless (ends_next (quiet_writeLong ..)))
  case smull => exact ends_unrouted rfl rfl (ends_unless (ends_next (quiet_writeLong ..)))
  case smlal => exact ends_unrouted rfl rfl (ends_unless (ends_next (quiet_writeLong ..)))
  case swp => exact ends_unrouted rfl rfl (ends_unless (ends_swap ..))
  case swpb => exact ends_unrouted rfl rfl (ends_unless (ends_swap ..))
  case bx => exact ends_unrouted rfl rfl (ends_next (quiet_branchExchange ..))
  case blxReg =>
    exact ends_unrouted rfl rfl (ends_unless (ends_next ((quiet_setX ..).trans (quiet_branchExchange ..))))
  case clz => exact ends_unrouted rfl rfl (ends_unless (ends_next (quiet_setX ..)))
  case blxImm | undefCond1111 =>
    exact ends_undefined
  case undefMulswp | undefMisc | undefClass1Move | undefClass3 | ldc | stc | cdp | mrc | mcr =>
    exact ends_ifPasses ends_undefined
  case ldrhImm | ldrhReg | ldrsbImm | ldrsbReg | ldrshImm | ldrshReg =>
    exact ends_ifPasses (ends_unless (ends_loadMiscWith ..))
  case strhImm | strhReg =>
    exact ends_ifPasses (ends_unless (ends_strhWith ..))
  case ldrdImm | ldrdReg =>
    exact ends_ifPasses (ends_unless (ends_ldrdWith ..))
  case strdImm | strdReg =>
    exact ends_ifPasses (ends_unless (ends_strdWith rfl ..))
  case andImmShift | eorImmShift | subImmShift | rsbImmShift | addImmShift | adcImmShift | sbcImmShift |
    rscImmShift | orrImmShift | movImmShift | bicImmShift | mvnImmShift | andImm | eorImm | subImm | rsbImm | addImm
    | adcImm | sbcImm | rscImm | orrImm | movImm | bicImm | mvnImm =>
    exact ends_ifPasses (ends_dpWrite ..)
  case andRegShift | eorRegShift | subRegShift | rsbRegShift | addRegShift | adcRegShift | sbcRegShift |
    rscRegShift | orrRegShift | movRegShift | bicRegShift | mvnRegShift =>
    exact ends_ifPasses (ends_unless (ends_dpWrite ..))
  case tstImmShift | teqImmShift | cmpImmShift | cmnImmShift | tstImm | teqImm | cmpImm | cmnImm =>
    exact ends_ifPasses (ends_dpCompare ..)
  case tstRegShift | teqRegShift | cmpRegShift | cmnRegShift =>
    exact ends_ifPasses (ends_unless (ends_dpCompare ..))
  case ldrtImm | ldrImm | ldrtReg | ldrReg =>
    exact ends_ifPasses (ends_unless (ends_ldrWith ..))
  case ldrbtImm | ldrbImm | ldrbtReg | ldrbReg =>
    exact ends_ifPasses (ends_unless (ends_ldrbWith ..))
  case strtImm | strImm | strtReg | strReg =>
    exact ends_ifPasses (ends_unless (ends_strWith ..))
  case strbtImm | strbImm | strbtReg | strbReg =>
    exact ends_ifPasses (ends_unless (ends_strbWith ..))

end Sys2Proof.Machine
end

