-- ==== Sys2Proof/Laws/PerInstr.lean ====
section
/-! SUPPORT. The family `EncodedCond`: the condition field w[31:28] of an instruction's word is its condition's code, and
0b1111 for the two rows of that space (R121, R174, R176). One lemma per constructor. -/

namespace Sys2Proof.Laws.EncodedCond

/-- The word of an instruction holds its condition in w[31:28]. -/
def Statement (i : Instr) : Prop :=
  bits (encode i) 28 4 = match i.cond? with
    | some c => c.code
    | none => 0b1111#4

/-- The condition's place is above every other field. -/
theorem cond_place (c : Cond) : bits (place c.code 28) 28 4 = c.code := by
  rw [bits_place_inside _ _ _ _ (by decide) (by decide) (by decide)]; simp

theorem cond_encDpImm (c : Cond) (op : DpOp) (s : Bool) (rn rd rot : BitVec 4) (imm : BitVec 8) :
    bits (encDpImm c op s rn rd rot imm) 28 4 = c.code := by
  simp (disch := decide) [encDpImm, cond_place, bits_place_above]

theorem cond_encDpImmShift (c : Cond) (op : DpOp) (s : Bool) (rn rd : BitVec 4) (k : ShiftKind) (amt : BitVec 5)
    (rm : BitVec 4) :
    bits (encDpImmShift c op s rn rd k amt rm) 28 4 = c.code := by
  simp (disch := decide) [encDpImmShift, cond_place, bits_place_above]

theorem cond_encDpRegShift (c : Cond) (op : DpOp) (s : Bool) (rn rd : BitVec 4) (k : ShiftKind) (rs rm : BitVec 4) :
    bits (encDpRegShift c op s rn rd k rs rm) 28 4 = c.code := by
  simp (disch := decide) [encDpRegShift, cond_place, bits_place_above]

theorem cond_encMul (c : Cond) (acc s : Bool) (rd rn rs rm : BitVec 4) :
    bits (encMul c acc s rd rn rs rm) 28 4 = c.code := by
  simp (disch := decide) [encMul, cond_place, bits_place_above]

theorem cond_encMulLong (c : Cond) (signed acc s : Bool) (rdHi rdLo rs rm : BitVec 4) :
    bits (encMulLong c signed acc s rdHi rdLo rs rm) 28 4 = c.code := by
  simp (disch := decide) [encMulLong, cond_place, bits_place_above]

theorem cond_encSwp (c : Cond) (b : Bool) (rn rd rm : BitVec 4) :
    bits (encSwp c b rn rd rm) 28 4 = c.code := by
  simp (disch := decide) [encSwp, cond_place, bits_place_above]

theorem cond_encExtraImm (c : Cond) (l : Bool) (sh : BitVec 2) (idx : Index) (u : Bool) (rn rd : BitVec 4)
    (off : BitVec 8) :
    bits (encExtraImm c l sh idx u rn rd off) 28 4 = c.code := by
  simp (disch := decide) [encExtraImm, cond_place, bits_place_above]

theorem cond_encExtraReg (c : Cond) (l : Bool) (sh : BitVec 2) (idx : Index) (u : Bool) (rn rd rm : BitVec 4) :
    bits (encExtraReg c l sh idx u rn rd rm) 28 4 = c.code := by
  simp (disch := decide) [encExtraReg, cond_place, bits_place_above]

theorem cond_encMrs (c : Cond) (r : Bool) (rd : BitVec 4) :
    bits (encMrs c r rd) 28 4 = c.code := by
  simp (disch := decide) [encMrs, cond_place, bits_place_above]

theorem cond_encMsrReg (c : Cond) (r : Bool) (mask rm : BitVec 4) :
    bits (encMsrReg c r mask rm) 28 4 = c.code := by
  simp (disch := decide) [encMsrReg, cond_place, bits_place_above]

theorem cond_encMsrImm (c : Cond) (r : Bool) (mask rot : BitVec 4) (imm : BitVec 8) :
    bits (encMsrImm c r mask rot imm) 28 4 = c.code := by
  simp (disch := decide) [encMsrImm, cond_place, bits_place_above]

theorem cond_encBx (c : Cond) (b : BitVec 4) (rm : BitVec 4) :
    bits (encBx c b rm) 28 4 = c.code := by
  simp (disch := decide) [encBx, cond_place, bits_place_above]

theorem cond_encClz (c : Cond) (rd rm : BitVec 4) :
    bits (encClz c rd rm) 28 4 = c.code := by
  simp (disch := decide) [encClz, cond_place, bits_place_above]

theorem cond_encBkpt (c : Cond) (imm : BitVec 16) :
    bits (encBkpt c imm) 28 4 = c.code := by
  simp (disch := decide) [encBkpt, cond_place, bits_place_above]

theorem cond_encLsImm (c : Cond) (b l : Bool) (idx : Index) (u : Bool) (rn rd : BitVec 4) (off : BitVec 12) :
    bits (encLsImm c b l idx u rn rd off) 28 4 = c.code := by
  simp (disch := decide) [encLsImm, cond_place, bits_place_above]

theorem cond_encLsReg (c : Cond) (b l : Bool) (idx : Index) (u : Bool) (rn rd : BitVec 4) (k : ShiftKind)
    (amt : BitVec 5) (rm : BitVec 4) :
    bits (encLsReg c b l idx u rn rd k amt rm) 28 4 = c.code := by
  simp (disch := decide) [encLsReg, cond_place, bits_place_above]

theorem cond_encBlock (c : Cond) (s l : Bool) (md : BlockMode) (w : Bool) (rn : BitVec 4) (list : BitVec 16) :
    bits (encBlock c s l md w rn list) 28 4 = c.code := by
  simp (disch := decide) [encBlock, cond_place, bits_place_above]

theorem cond_encBranch (c : Cond) (l : Bool) (imm : BitVec 24) :
    bits (encBranch c l imm) 28 4 = c.code := by
  simp (disch := decide) [encBranch, cond_place, bits_place_above]

theorem cond_encCpLs (c : Cond) (p u n w l : Bool) (rn crd cp : BitVec 4) (off : BitVec 8) :
    bits (encCpLs c p u n w l rn crd cp off) 28 4 = c.code := by
  simp (disch := decide) [encCpLs, cond_place, bits_place_above]

theorem cond_encCdp (c : Cond) (op1 crn crd cp : BitVec 4) (op2 : BitVec 3) (crm : BitVec 4) :
    bits (encCdp c op1 crn crd cp op2 crm) 28 4 = c.code := by
  simp (disch := decide) [encCdp, cond_place, bits_place_above]

theorem cond_encCpRt (c : Cond) (l : Bool) (op1 : BitVec 3) (crn rd cp : BitVec 4) (op2 : BitVec 3) (crm : BitVec 4) :
    bits (encCpRt c l op1 crn rd cp op2 crm) 28 4 = c.code := by
  simp (disch := decide) [encCpRt, cond_place, bits_place_above]

theorem cond_encSwi (c : Cond) (imm : BitVec 24) :
    bits (encSwi c imm) 28 4 = c.code := by
  simp (disch := decide) [encSwi, cond_place, bits_place_above]

theorem blxImm (h : Bool) (imm : BitVec 24) : Statement (.blxImm h imm) := by
  simp (disch := decide) [Statement, encode, Instr.cond?, bits_place_inside, bits_place_above]

theorem undefCond1111 (rest : BitVec 28) : Statement (.undefCond1111 rest) := by
  simp (disch := decide) [Statement, encode, Instr.cond?, bits_place_inside, bits_place_above]

theorem mul (c : Cond) (s : Bool) (rd rs rm : RegNo) : Statement (.mul c s rd rs rm) := cond_encMul ..

theorem mla (c : Cond) (s : Bool) (rd rn rs rm : RegNo) : Statement (.mla c s rd rn rs rm) := cond_encMul ..

theorem umull (c : Cond) (s : Bool) (rdHi rdLo rs rm : RegNo) : Statement (.umull c s rdHi rdLo rs rm) :=
    cond_encMulLong ..

theorem umlal (c : Cond) (s : Bool) (rdHi rdLo rs rm : RegNo) : Statement (.umlal c s rdHi rdLo rs rm) :=
    cond_encMulLong ..

theorem smull (c : Cond) (s : Bool) (rdHi rdLo rs rm : RegNo) : Statement (.smull c s rdHi rdLo rs rm) :=
    cond_encMulLong ..

theorem smlal (c : Cond) (s : Bool) (rdHi rdLo rs rm : RegNo) : Statement (.smlal c s rdHi rdLo rs rm) :=
    cond_encMulLong ..

theorem swp (c : Cond) (rn rd rm : RegNo) : Statement (.swp c rn rd rm) := cond_encSwp ..

theorem swpb (c : Cond) (rn rd rm : RegNo) : Statement (.swpb c rn rd rm) := cond_encSwp ..

theorem undefMulswp (c : Cond) (op : BitVec 5) (mid : BitVec 12) (low : BitVec 4) :
    Statement (.undefMulswp c op mid low) := by
  simp (disch := decide) [Statement, encode, Instr.cond?, cond_place, bits_place_above]

theorem ldrhImm (c : Cond) (idx : Index) (u : Bool) (rn rd : RegNo) (off : BitVec 8) :
    Statement (.ldrhImm c idx u rn rd off) := cond_encExtraImm ..

theorem ldrhReg (c : Cond) (idx : Index) (u : Bool) (rn rd rm : RegNo) : Statement (.ldrhReg c idx u rn rd rm) :=
    cond_encExtraReg ..

theorem strhImm (c : Cond) (idx : Index) (u : Bool) (rn rd : RegNo) (off : BitVec 8) :
    Statement (.strhImm c idx u rn rd off) := cond_encExtraImm ..

theorem strhReg (c : Cond) (idx : Index) (u : Bool) (rn rd rm : RegNo) : Statement (.strhReg c idx u rn rd rm) :=
    cond_encExtraReg ..

theorem ldrsbImm (c : Cond) (idx : Index) (u : Bool) (rn rd : RegNo) (off : BitVec 8) :
    Statement (.ldrsbImm c idx u rn rd off) := cond_encExtraImm ..

theorem ldrsbReg (c : Cond) (idx : Index) (u : Bool) (rn rd rm : RegNo) : Statement (.ldrsbReg c idx u rn rd rm) :=
    cond_encExtraReg ..

theorem ldrshImm (c : Cond) (idx : Index) (u : Bool) (rn rd : RegNo) (off : BitVec 8) :
    Statement (.ldrshImm c idx u rn rd off) := cond_encExtraImm ..

theorem ldrshReg (c : Cond) (idx : Index) (u : Bool) (rn rd rm : RegNo) : Statement (.ldrshReg c idx u rn rd rm) :=
    cond_encExtraReg ..

theorem ldrdImm (c : Cond) (idx : Index) (u : Bool) (rn rd : RegNo) (off : BitVec 8) :
    Statement (.ldrdImm c idx u rn rd off) := cond_encExtraImm ..

theorem ldrdReg (c : Cond) (idx : Index) (u : Bool) (rn rd rm : RegNo) : Statement (.ldrdReg c idx u rn rd rm) :=
    cond_encExtraReg ..

theorem strdImm (c : Cond) (idx : Index) (u : Bool) (rn rd : RegNo) (off : BitVec 8) :
    Statement (.strdImm c idx u rn rd off) := cond_encExtraImm ..

theorem strdReg (c : Cond) (idx : Index) (u : Bool) (rn rd rm : RegNo) : Statement (.strdReg c idx u rn rd rm) :=
    cond_encExtraReg ..

theorem mrsCpsr (c : Cond) (rd : RegNo) : Statement (.mrsCpsr c rd) := cond_encMrs ..

theorem mrsSpsr (c : Cond) (rd : RegNo) : Statement (.mrsSpsr c rd) := cond_encMrs ..

theorem msrCpsrReg (c : Cond) (mask : BitVec 4) (rm : RegNo) : Statement (.msrCpsrReg c mask rm) :=
    cond_encMsrReg ..

theorem msrSpsrReg (c : Cond) (mask : BitVec 4) (rm : RegNo) : Statement (.msrSpsrReg c mask rm) :=
    cond_encMsrReg ..

theorem bx (c : Cond) (rm : RegNo) : Statement (.bx c rm) := cond_encBx ..

theorem blxReg (c : Cond) (rm : RegNo) : Statement (.blxReg c rm) := cond_encBx ..

theorem clz (c : Cond) (rd rm : RegNo) : Statement (.clz c rd rm) := cond_encClz ..

theorem bkpt (c : Cond) (imm : BitVec 16) : Statement (.bkpt c imm) := cond_encBkpt ..

theorem undefMisc (c : Cond) (op : BitVec 2) (rest : BitVec 20) : Statement (.undefMisc c op rest) := by
  simp (disch := decide) [Statement, encode, Instr.cond?, cond_place, bits_place_above]

theorem andImmShift (c : Cond) (s : Bool) (rd rn : RegNo) (k : ShiftKind) (amt : BitVec 5) (rm : RegNo) :
    Statement (.andImmShift c s rd rn k amt rm) := cond_encDpImmShift ..

theorem andRegShift (c : Cond) (s : Bool) (rd rn : RegNo) (k : ShiftKind) (rs rm : RegNo) :
    Statement (.andRegShift c s rd rn k rs rm) := cond_encDpRegShift ..

theorem eorImmShift (c : Cond) (s : Bool) (rd rn : RegNo) (k : ShiftKind) (amt : BitVec 5) (rm : RegNo) :
    Statement (.eorImmShift c s rd rn k amt rm) := cond_encDpImmShift ..

theorem eorRegShift (c : Cond) (s : Bool) (rd rn : RegNo) (k : ShiftKind) (rs rm : RegNo) :
    Statement (.eorRegShift c s rd rn k rs rm) := cond_encDpRegShift ..

theorem subImmShift (c : Cond) (s : Bool) (rd rn : RegNo) (k : ShiftKind) (amt : BitVec 5) (rm : RegNo) :
    Statement (.subImmShift c s rd rn k amt rm) := cond_encDpImmShift ..

theorem subRegShift (c : Cond) (s : Bool) (rd rn : RegNo) (k : ShiftKind) (rs rm : RegNo) :
    Statement (.subRegShift c s rd rn k rs rm) := cond_encDpRegShift ..

theorem rsbImmShift (c : Cond) (s : Bool) (rd rn : RegNo) (k : ShiftKind) (amt : BitVec 5) (rm : RegNo) :
    Statement (.rsbImmShift c s rd rn k amt rm) := cond_encDpImmShift ..

theorem rsbRegShift (c : Cond) (s : Bool) (rd rn : RegNo) (k : ShiftKind) (rs rm : RegNo) :
    Statement (.rsbRegShift c s rd rn k rs rm) := cond_encDpRegShift ..

theorem addImmShift (c : Cond) (s : Bool) (rd rn : RegNo) (k : ShiftKind) (amt : BitVec 5) (rm : RegNo) :
    Statement (.addImmShift c s rd rn k amt rm) := cond_encDpImmShift ..

theorem addRegShift (c : Cond) (s : Bool) (rd rn : RegNo) (k : ShiftKind) (rs rm : RegNo) :
    Statement (.addRegShift c s rd rn k rs rm) := cond_encDpRegShift ..

theorem adcImmShift (c : Cond) (s : Bool) (rd rn : RegNo) (k : ShiftKind) (amt : BitVec 5) (rm : RegNo) :
    Statement (.adcImmShift c s rd rn k amt rm) := cond_encDpImmShift ..

theorem adcRegShift (c : Cond) (s : Bool) (rd rn : RegNo) (k : ShiftKind) (rs rm : RegNo) :
    Statement (.adcRegShift c s rd rn k rs rm) := cond_encDpRegShift ..

theorem sbcImmShift (c : Cond) (s : Bool) (rd rn : RegNo) (k : ShiftKind) (amt : BitVec 5) (rm : RegNo) :
    Statement (.sbcImmShift c s rd rn k amt rm) := cond_encDpImmShift ..

theorem sbcRegShift (c : Cond) (s : Bool) (rd rn : RegNo) (k : ShiftKind) (rs rm : RegNo) :
    Statement (.sbcRegShift c s rd rn k rs rm) := cond_encDpRegShift ..

theorem rscImmShift (c : Cond) (s : Bool) (rd rn : RegNo) (k : ShiftKind) (amt : BitVec 5) (rm : RegNo) :
    Statement (.rscImmShift c s rd rn k amt rm) := cond_encDpImmShift ..

theorem rscRegShift (c : Cond) (s : Bool) (rd rn : RegNo) (k : ShiftKind) (rs rm : RegNo) :
    Statement (.rscRegShift c s rd rn k rs rm) := cond_encDpRegShift ..

theorem tstImmShift (c : Cond) (rn : RegNo) (k : ShiftKind) (amt : BitVec 5) (rm : RegNo) :
    Statement (.tstImmShift c rn k amt rm) := cond_encDpImmShift ..

theorem tstRegShift (c : Cond) (rn : RegNo) (k : ShiftKind) (rs rm : RegNo) :
    Statement (.tstRegShift c rn k rs rm) := cond_encDpRegShift ..

theorem teqImmShift (c : Cond) (rn : RegNo) (k : ShiftKind) (amt : BitVec 5) (rm : RegNo) :
    Statement (.teqImmShift c rn k amt rm) := cond_encDpImmShift ..

theorem teqRegShift (c : Cond) (rn : RegNo) (k : ShiftKind) (rs rm : RegNo) :
    Statement (.teqRegShift c rn k rs rm) := cond_encDpRegShift ..

theorem cmpImmShift (c : Cond) (rn : RegNo) (k : ShiftKind) (amt : BitVec 5) (rm : RegNo) :
    Statement (.cmpImmShift c rn k amt rm) := cond_encDpImmShift ..

theorem cmpRegShift (c : Cond) (rn : RegNo) (k : ShiftKind) (rs rm : RegNo) :
    Statement (.cmpRegShift c rn k rs rm) := cond_encDpRegShift ..

theorem cmnImmShift (c : Cond) (rn : RegNo) (k : ShiftKind) (amt : BitVec 5) (rm : RegNo) :
    Statement (.cmnImmShift c rn k amt rm) := cond_encDpImmShift ..

theorem cmnRegShift (c : Cond) (rn : RegNo) (k : ShiftKind) (rs rm : RegNo) :
    Statement (.cmnRegShift c rn k rs rm) := cond_encDpRegShift ..

theorem orrImmShift (c : Cond) (s : Bool) (rd rn : RegNo) (k : ShiftKind) (amt : BitVec 5) (rm : RegNo) :
    Statement (.orrImmShift c s rd rn k amt rm) := cond_encDpImmShift ..

theorem orrRegShift (c : Cond) (s : Bool) (rd rn : RegNo) (k : ShiftKind) (rs rm : RegNo) :
    Statement (.orrRegShift c s rd rn k rs rm) := cond_encDpRegShift ..

theorem movImmShift (c : Cond) (s : Bool) (rd : RegNo) (k : ShiftKind) (amt : BitVec 5) (rm : RegNo) :
    Statement (.movImmShift c s rd k amt rm) := cond_encDpImmShift ..

theorem movRegShift (c : Cond) (s : Bool) (rd : RegNo) (k : ShiftKind) (rs rm : RegNo) :
    Statement (.movRegShift c s rd k rs rm) := cond_encDpRegShift ..

theorem bicImmShift (c : Cond) (s : Bool) (rd rn : RegNo) (k : ShiftKind) (amt : BitVec 5) (rm : RegNo) :
    Statement (.bicImmShift c s rd rn k amt rm) := cond_encDpImmShift ..

theorem bicRegShift (c : Cond) (s : Bool) (rd rn : RegNo) (k : ShiftKind) (rs rm : RegNo) :
    Statement (.bicRegShift c s rd rn k rs rm) := cond_encDpRegShift ..

theorem mvnImmShift (c : Cond) (s : Bool) (rd : RegNo) (k : ShiftKind) (amt : BitVec 5) (rm : RegNo) :
    Statement (.mvnImmShift c s rd k amt rm) := cond_encDpImmShift ..

theorem mvnRegShift (c : Cond) (s : Bool) (rd : RegNo) (k : ShiftKind) (rs rm : RegNo) :
    Statement (.mvnRegShift c s rd k rs rm) := cond_encDpRegShift ..

theorem msrCpsrImm (c : Cond) (mask rot : BitVec 4) (imm : BitVec 8) : Statement (.msrCpsrImm c mask rot imm) :=
    cond_encMsrImm ..

theorem msrSpsrImm (c : Cond) (mask rot : BitVec 4) (imm : BitVec 8) : Statement (.msrSpsrImm c mask rot imm) :=
    cond_encMsrImm ..

theorem undefClass1Move (c : Cond) (b22 : Bool) (rest : BitVec 20) : Statement (.undefClass1Move c b22 rest) := by
  simp (disch := decide) [Statement, encode, Instr.cond?, cond_place, bits_place_above]

theorem andImm (c : Cond) (s : Bool) (rd rn : RegNo) (rot : BitVec 4) (imm : BitVec 8) :
    Statement (.andImm c s rd rn rot imm) := cond_encDpImm ..

theorem eorImm (c : Cond) (s : Bool) (rd rn : RegNo) (rot : BitVec 4) (imm : BitVec 8) :
    Statement (.eorImm c s rd rn rot imm) := cond_encDpImm ..

theorem subImm (c : Cond) (s : Bool) (rd rn : RegNo) (rot : BitVec 4) (imm : BitVec 8) :
    Statement (.subImm c s rd rn rot imm) := cond_encDpImm ..

theorem rsbImm (c : Cond) (s : Bool) (rd rn : RegNo) (rot : BitVec 4) (imm : BitVec 8) :
    Statement (.rsbImm c s rd rn rot imm) := cond_encDpImm ..

theorem addImm (c : Cond) (s : Bool) (rd rn : RegNo) (rot : BitVec 4) (imm : BitVec 8) :
    Statement (.addImm c s rd rn rot imm) := cond_encDpImm ..

theorem adcImm (c : Cond) (s : Bool) (rd rn : RegNo) (rot : BitVec 4) (imm : BitVec 8) :
    Statement (.adcImm c s rd rn rot imm) := cond_encDpImm ..

theorem sbcImm (c : Cond) (s : Bool) (rd rn : RegNo) (rot : BitVec 4) (imm : BitVec 8) :
    Statement (.sbcImm c s rd rn rot imm) := cond_encDpImm ..

theorem rscImm (c : Cond) (s : Bool) (rd rn : RegNo) (rot : BitVec 4) (imm : BitVec 8) :
    Statement (.rscImm c s rd rn rot imm) := cond_encDpImm ..

theorem tstImm (c : Cond) (rn : RegNo) (rot : BitVec 4) (imm : BitVec 8) : Statement (.tstImm c rn rot imm) :=
    cond_encDpImm ..

theorem teqImm (c : Cond) (rn : RegNo) (rot : BitVec 4) (imm : BitVec 8) : Statement (.teqImm c rn rot imm) :=
    cond_encDpImm ..

theorem cmpImm (c : Cond) (rn : RegNo) (rot : BitVec 4) (imm : BitVec 8) : Statement (.cmpImm c rn rot imm) :=
    cond_encDpImm ..

theorem cmnImm (c : Cond) (rn : RegNo) (rot : BitVec 4) (imm : BitVec 8) : Statement (.cmnImm c rn rot imm) :=
    cond_encDpImm ..

theorem orrImm (c : Cond) (s : Bool) (rd rn : RegNo) (rot : BitVec 4) (imm : BitVec 8) :
    Statement (.orrImm c s rd rn rot imm) := cond_encDpImm ..

theorem movImm (c : Cond) (s : Bool) (rd : RegNo) (rot : BitVec 4) (imm : BitVec 8) :
    Statement (.movImm c s rd rot imm) := cond_encDpImm ..

theorem bicImm (c : Cond) (s : Bool) (rd rn : RegNo) (rot : BitVec 4) (imm : BitVec 8) :
    Statement (.bicImm c s rd rn rot imm) := cond_encDpImm ..

theorem mvnImm (c : Cond) (s : Bool) (rd : RegNo) (rot : BitVec 4) (imm : BitVec 8) :
    Statement (.mvnImm c s rd rot imm) := cond_encDpImm ..

theorem undefClass3 (c : Cond) (hi : BitVec 20) (low : BitVec 4) : Statement (.undefClass3 c hi low) := by
  simp (disch := decide) [Statement, encode, Instr.cond?, cond_place, bits_place_above]

theorem ldrtImm (c : Cond) (u : Bool) (rn rd : RegNo) (off : BitVec 12) : Statement (.ldrtImm c u rn rd off) :=
    cond_encLsImm ..

theorem ldrbtImm (c : Cond) (u : Bool) (rn rd : RegNo) (off : BitVec 12) : Statement (.ldrbtImm c u rn rd off) :=
    cond_encLsImm ..

theorem strtImm (c : Cond) (u : Bool) (rn rd : RegNo) (off : BitVec 12) : Statement (.strtImm c u rn rd off) :=
    cond_encLsImm ..

theorem strbtImm (c : Cond) (u : Bool) (rn rd : RegNo) (off : BitVec 12) : Statement (.strbtImm c u rn rd off) :=
    cond_encLsImm ..

theorem ldrImm (c : Cond) (idx : Index) (u : Bool) (rn rd : RegNo) (off : BitVec 12) :
    Statement (.ldrImm c idx u rn rd off) := cond_encLsImm ..

theorem ldrbImm (c : Cond) (idx : Index) (u : Bool) (rn rd : RegNo) (off : BitVec 12) :
    Statement (.ldrbImm c idx u rn rd off) := cond_encLsImm ..

theorem strImm (c : Cond) (idx : Index) (u : Bool) (rn rd : RegNo) (off : BitVec 12) :
    Statement (.strImm c idx u rn rd off) := cond_encLsImm ..

theorem strbImm (c : Cond) (idx : Index) (u : Bool) (rn rd : RegNo) (off : BitVec 12) :
    Statement (.strbImm c idx u rn rd off) := cond_encLsImm ..

theorem ldrtReg (c : Cond) (u : Bool) (rn rd : RegNo) (k : ShiftKind) (amt : BitVec 5) (rm : RegNo) :
    Statement (.ldrtReg c u rn rd k amt rm) := cond_encLsReg ..

theorem ldrbtReg (c : Cond) (u : Bool) (rn rd : RegNo) (k : ShiftKind) (amt : BitVec 5) (rm : RegNo) :
    Statement (.ldrbtReg c u rn rd k amt rm) := cond_encLsReg ..

theorem strtReg (c : Cond) (u : Bool) (rn rd : RegNo) (k : ShiftKind) (amt : BitVec 5) (rm : RegNo) :
    Statement (.strtReg c u rn rd k amt rm) := cond_encLsReg ..

theorem strbtReg (c : Cond) (u : Bool) (rn rd : RegNo) (k : ShiftKind) (amt : BitVec 5) (rm : RegNo) :
    Statement (.strbtReg c u rn rd k amt rm) := cond_encLsReg ..

theorem ldrReg (c : Cond) (idx : Index) (u : Bool) (rn rd : RegNo) (k : ShiftKind) (amt : BitVec 5) (rm : RegNo) :
    Statement (.ldrReg c idx u rn rd k amt rm) := cond_encLsReg ..

theorem ldrbReg (c : Cond) (idx : Index) (u : Bool) (rn rd : RegNo) (k : ShiftKind) (amt : BitVec 5) (rm : RegNo) :
    Statement (.ldrbReg c idx u rn rd k amt rm) := cond_encLsReg ..

theorem strReg (c : Cond) (idx : Index) (u : Bool) (rn rd : RegNo) (k : ShiftKind) (amt : BitVec 5) (rm : RegNo) :
    Statement (.strReg c idx u rn rd k amt rm) := cond_encLsReg ..

theorem strbReg (c : Cond) (idx : Index) (u : Bool) (rn rd : RegNo) (k : ShiftKind) (amt : BitVec 5) (rm : RegNo) :
    Statement (.strbReg c idx u rn rd k amt rm) := cond_encLsReg ..

theorem ldm1 (c : Cond) (md : BlockMode) (w : Bool) (rn : RegNo) (list : BitVec 16) :
    Statement (.ldm1 c md w rn list) := cond_encBlock ..

theorem ldm2 (c : Cond) (md : BlockMode) (w : Bool) (rn : RegNo) (list : BitVec 16) :
    Statement (.ldm2 c md w rn list) := cond_encBlock ..

theorem ldm3 (c : Cond) (md : BlockMode) (w : Bool) (rn : RegNo) (list : BitVec 16) :
    Statement (.ldm3 c md w rn list) := cond_encBlock ..

theorem stm1 (c : Cond) (md : BlockMode) (w : Bool) (rn : RegNo) (list : BitVec 16) :
    Statement (.stm1 c md w rn list) := cond_encBlock ..

theorem stm2 (c : Cond) (md : BlockMode) (w : Bool) (rn : RegNo) (list : BitVec 16) :
    Statement (.stm2 c md w rn list) := cond_encBlock ..

theorem b (c : Cond) (imm : BitVec 24) : Statement (.b c imm) := cond_encBranch ..

theorem bl (c : Cond) (imm : BitVec 24) : Statement (.bl c imm) := cond_encBranch ..

theorem ldc (c : Cond) (p u n w : Bool) (rn : RegNo) (crd cp : BitVec 4) (off : BitVec 8) :
    Statement (.ldc c p u n w rn crd cp off) := cond_encCpLs ..

theorem stc (c : Cond) (p u n w : Bool) (rn : RegNo) (crd cp : BitVec 4) (off : BitVec 8) :
    Statement (.stc c p u n w rn crd cp off) := cond_encCpLs ..

theorem swiHalt (c : Cond) : Statement (.swiHalt c) := cond_encSwi ..

theorem swi (c : Cond) (imm : BitVec 24) : Statement (.swi c imm) := cond_encSwi ..

theorem cdp (c : Cond) (op1 crn crd cp : BitVec 4) (op2 : BitVec 3) (crm : BitVec 4) :
    Statement (.cdp c op1 crn crd cp op2 crm) := cond_encCdp ..

theorem mrc (c : Cond) (op1 : BitVec 3) (crn : BitVec 4) (rd : RegNo) (cp : BitVec 4) (op2 : BitVec 3) (crm : BitVec 4) :
    Statement (.mrc c op1 crn rd cp op2 crm) := cond_encCpRt ..

theorem mcr (c : Cond) (op1 : BitVec 3) (crn : BitVec 4) (rd : RegNo) (cp : BitVec 4) (op2 : BitVec 3) (crm : BitVec 4) :
    Statement (.mcr c op1 crn rd cp op2 crm) := cond_encCpRt ..

end Sys2Proof.Laws.EncodedCond
end

