-- ==== Sys2Proof/Laws/Step.lean ====
section
/-! SUPPORT. What a step can do, said once: the failed fetch, or the decoded instruction in the advanced state. -/

namespace Sys2Proof.Machine

/-- A runnable state passes the checks of R171 and fetches. -/
theorem step_of_runnable {s : State} (h : s.runnable = true) :
    step s = match s.fetch with
      | none => .next s.fetchAbort
      | some w => exec (decodeWord w) s.advance := by
  simp only [State.runnable, Bool.and_eq_true, Bool.not_eq_true'] at h
  obtain ⟨⟨h1, h2⟩, h3⟩ := h
  unfold step
  cases hm : s.mode? with
  | none => simp [hm] at h1
  | some m => cases s.fetch <;> simp [h2, h3]

/-- A state that is not runnable is refused, by one of the three checks. -/
theorem step_of_not_runnable {s : State} (h : s.runnable = false) :
    (step s = .refused .invalidMode ∧ s.mode? = none) ∨ (step s = .refused .thumbState ∧ thumb s.cpsr = true) ∨
    (step s = .refused .misalignedFetch ∧ s.pcAligned = false) := by
  unfold step
  cases hm : s.mode? with
  | none => exact .inl ⟨rfl, rfl⟩
  | some m =>
    cases ht : thumb s.cpsr with
    | true => exact .inr (.inl ⟨by simp, rfl⟩)
    | false =>
      cases ha : s.pcAligned with
      | false => exact .inr (.inr ⟨by simp, rfl⟩)
      | true => simp [State.runnable, hm, ht, ha] at h

/-- A step that answers a next state ran from a runnable state: the fetch failed, or the fetched word was executed. -/
theorem step_next {s t : State} (h : step s = .next t) :
    s.runnable = true ∧
      ((s.fetch = none ∧ t = s.fetchAbort) ∨ ∃ w, s.fetch = some w ∧ exec (decodeWord w) s.advance = .next t) := by
  cases hr : s.runnable with
  | false => rcases step_of_not_runnable hr with ⟨e, -⟩ | ⟨e, -⟩ | ⟨e, -⟩ <;> rw [e] at h <;> cases h
  | true =>
    refine ⟨rfl, ?_⟩
    rw [step_of_runnable hr] at h
    cases hf : s.fetch with
    | none => rw [hf] at h; cases h; exact .inl ⟨rfl, rfl⟩
    | some w => rw [hf] at h; exact .inr ⟨w, rfl, h⟩

end Sys2Proof.Machine
end

