-- ==== Sys2Proof/Machine/Assembly.lean ====
section
/-! DEFINITION. What the assembler names stand for (spec 30_encoding section 7, R142–R146): suffixes, written shifts and
immediates, stack aliases, field names and the pseudo-instructions. Nothing of the machine reads these. -/

namespace Sys2Proof.Machine

/-- The condition suffixes (R143). A missing suffix means AL. -/
def condSuffixes : List (String × Cond) :=
  [("EQ", .eq), ("NE", .ne), ("CS", .cs), ("HS", .cs), ("CC", .cc), ("LO", .cc), ("MI", .mi), ("PL", .pl), ("VS", .vs),
    ("VC", .vc), ("HI", .hi), ("LS", .ls), ("GE", .ge), ("LT", .lt), ("GT", .gt), ("LE", .le), ("AL", .al), ("", .al)]

/-- A constant shift as it is written (R142). ASL is LSL. -/
inductive WrittenShift
  | lsl (n : Nat)
  | asl (n : Nat)
  | lsr (n : Nat)
  | asr (n : Nat)
  | ror (n : Nat)
  | rrx
deriving DecidableEq, Repr

/-- The shift kind and shift_imm that a written shift encodes to, if it has an encoding: LSR #32 and ASR #32 with
shift_imm = 0, RRX as ROR #0 (R142). -/
def WrittenShift.encoding : WrittenShift → Option (ShiftKind × BitVec 5)
  | .lsl n => if n ≤ 31 then some (.lsl, BitVec.ofNat 5 n) else none
  | .asl n => if n ≤ 31 then some (.lsl, BitVec.ofNat 5 n) else none
  | .lsr n => if 1 ≤ n ∧ n ≤ 32 then some (.lsr, BitVec.ofNat 5 n) else none
  | .asr n => if 1 ≤ n ∧ n ≤ 32 then some (.asr, BitVec.ofNat 5 n) else none
  | .ror n => if 1 ≤ n ∧ n ≤ 31 then some (.ror, BitVec.ofNat 5 n) else none
  | .rrx => some (.ror, 0#5)

/-- Every (rotate_imm, immed_8) that expresses a value by R137's rotated immediate (R142); none where the value does not
fit. The spec does not say which of several an assembler takes. -/
def immediateEncodings (v : Word) : List (BitVec 4 × BitVec 8) :=
  ((List.range 16).map fun r => (BitVec.ofNat 4 r, (v.rotateLeft (2 * r)).setWidth 8)).filter fun e =>
    rotatedImm e.1 e.2 == v

/-- The stack aliases of the block modes (R145). -/
inductive StackMode
  | fd | fa | ed | ea
deriving DecidableEq, Repr

/-- The stack aliases of LDM (R145). -/
def StackMode.ldm : StackMode → BlockMode
  | .fd => .ia | .fa => .da | .ed => .ib | .ea => .db

/-- The stack aliases of STM (R145). -/
def StackMode.stm : StackMode → BlockMode
  | .fd => .db | .fa => .ib | .ed => .da | .ea => .ia

/-- The field mask of an MSR's `_fields` suffix, a subset of c, x, s and f (R127, R145). -/
def fieldMask (c x s f : Bool) : BitVec 4 := BitVec.ofBool f ++ BitVec.ofBool s ++ BitVec.ofBool x ++ BitVec.ofBool c

/-- The legacy names `CPSR_all` and `CPSR_flg` (R145). -/
def maskAll : BitVec 4 := fieldMask true true true true
def maskFlg : BitVec 4 := fieldMask false false false true

/-! ## The pseudo-instructions and their expansions (R146) -/

/-- `NOP` is `MOV R0, R0`. -/
def asmNop : Instr := .movImmShift .al false 0 .lsl 0 0

/-- `PUSH` of a list is STMDB SP!. -/
def asmPush (list : BitVec 16) : Instr := .stm1 .al .db true 13 list

/-- `POP` of a list is LDMIA SP!. -/
def asmPop (list : BitVec 16) : Instr := .ldm1 .al .ia true 13 list

/-- `LSL Rd, Rm, #n`, and LSR, ASR, ROR and RRX, are MOV of the shifted register. -/
def asmShift (rd rm : RegNo) (k : WrittenShift) : Option Instr :=
  k.encoding.map fun e => .movImmShift .al false rd e.1 e.2 rm

/-- `ADR Rd, label` at `ia`: ADD of `label − (ia + 8)` to PC, or SUB of `(ia + 8) − label` from it, in every immediate that
expresses it. -/
def asmAdr (rd : RegNo) (label ia : Word) : List Instr :=
  ((immediateEncodings (label - (ia + 8#32))).map fun e => .addImm .al false rd 15 e.1 e.2) ++
    (immediateEncodings ((ia + 8#32) - label)).map fun e => .subImm .al false rd 15 e.1 e.2

/-- `LDR Rd, [PC, #off]` at `ia`, off being the pool address minus `ia + 8`, where it fits the 12-bit offset. -/
def asmLiteral (rd : RegNo) (pool ia : Word) : Option Instr :=
  let up := pool - (ia + 8#32)
  let down := (ia + 8#32) - pool
  if up.toNat ≤ 4095 then some (.ldrImm .al .offset true 15 rd (up.setWidth 12))
  else if down.toNat ≤ 4095 then some (.ldrImm .al .offset false 15 rd (down.setWidth 12))
  else none

/-- `LDR Rd, =const` at `ia`: MOV of the constant or MVN of its complement, in every immediate that expresses it; where
there is none, the load from the literal pool that holds it. -/
def asmLdrConst (rd : RegNo) (v pool ia : Word) : List Instr :=
  match ((immediateEncodings v).map fun e => .movImm .al false rd e.1 e.2) ++
      (immediateEncodings (~~~v)).map fun e => Instr.mvnImm .al false rd e.1 e.2 with
  | [] => (asmLiteral rd pool ia).toList
  | is => is

end Sys2Proof.Machine
end

