-- ==== Sys2Proof/Machine/Run.lean ====
section
/-! DEFINITION. A run (R186): the host's calls of `step()` and `raise(E)`, one after another (R185), to the first `Halt` or
refusal. -/

namespace Sys2Proof.Machine

/-- A call of the host that makes the core do something (R182, R183). -/
inductive HostCall
  | step
  | raise (e : HostCause)
deriving DecidableEq, Repr

/-- How a run ends: normally at the first `Halt`, abnormally at a refusal, or cut short by the host, of which the spec
says nothing (R186). -/
inductive RunEnd
  | halted
  | refused (r : Refusal)
  | cutShort
deriving DecidableEq, Repr

/-- The run that a list of calls makes from a state, and its end state (R186). A cause code does not end a run. -/
def State.runCalls : List HostCall → State → RunEnd × State
  | [], s => (.cutShort, s)
  | .raise e :: cs, s => State.runCalls cs (s.raise e).2
  | .step :: cs, s =>
    match Sys2Proof.Machine.step s with
    | .next t => if t.result = .halt then (.halted, t) else State.runCalls cs t
    | .refused r => (.refused r, s)
    | .fault f => nomatch f

end Sys2Proof.Machine
end

