-- ==== Sys2Proof/Tests/Slice0.lean ====
section
/-! SUPPORT. The model's own tests: what WellFormed refuses, a word of every row of the opcode table written out from its
fields, vectors of spec 95_test_vectors, and for every obligation with hypotheses a concrete case that meets them. -/

namespace Sys2Proof.Tests
open Sys2Proof.Machine

set_option maxRecDepth 20000
set_option synthInstance.maxSize 1000

/-! ## WellFormed refuses an ill-formed term, for each of its checks -/

theorem test_wf_undefined_spaces :
    (Instr.undefCond1111 0xA000000).wf = false ∧ (Instr.undefCond1111 0x2000000).wf = true ∧
    (Instr.undefMulswp .al 0b00001 0 0).wf = false ∧ (Instr.undefMulswp .al 0b01010 0 0).wf = false ∧
    (Instr.undefMulswp .al 0b10000 0 0).wf = false ∧ (Instr.undefMulswp .al 0b10100 0 0).wf = false ∧
    (Instr.undefMulswp .al 0b00100 0 0).wf = true ∧
    (Instr.undefMisc .al 0b01 0x00010).wf = false ∧ (Instr.undefMisc .al 0b11 0x00010).wf = false ∧
    (Instr.undefMisc .al 0b00 0x00000).wf = false ∧ (Instr.undefMisc .al 0b00 0x00090).wf = false ∧
    (Instr.undefMisc .al 0b10 0x00010).wf = true := by decide

theorem test_wf_transfers :
    (Instr.ldrImm .al .postW true 0 1 0).wf = false ∧ (Instr.ldrbImm .al .postW true 0 1 0).wf = false ∧
    (Instr.strImm .al .postW true 0 1 0).wf = false ∧ (Instr.strbImm .al .postW true 0 1 0).wf = false ∧
    (Instr.ldrReg .al .postW true 0 1 .lsl 0 2).wf = false ∧ (Instr.ldrbReg .al .postW true 0 1 .lsl 0 2).wf = false ∧
    (Instr.strReg .al .postW true 0 1 .lsl 0 2).wf = false ∧ (Instr.strbReg .al .postW true 0 1 .lsl 0 2).wf = false ∧
    (Instr.ldrImm .al .postIndexed true 0 1 0).wf = true := by decide

theorem test_wf_block_and_swi :
    (Instr.ldm2 .al .ia false 0 0x8000).wf = false ∧ (Instr.ldm3 .al .ia false 0 0x7FFF).wf = false ∧
    (Instr.ldm2 .al .ia false 0 0x7FFF).wf = true ∧ (Instr.ldm3 .al .ia false 0 0x8000).wf = true ∧
    (Instr.swi .al 0x123456).wf = false ∧ (Instr.swi .al 0x123457).wf = true := by decide

/-! ## Decoding: one word for each row, written out from the row's fields in spec/opcode_table.json -/

def wordsMultipliesAndSwaps : List Word :=
  [0xFB8ABCDE#32, 0xF7654321#32, 0x200C719A#32, 0x3031A895#32, 0x4081DF90#32, 0x50B4269B#32, 0x60C77D96#32,
   0x70FAC491#32, 0x8109A09C#32, 0x914CF097#32, 0xA05ABC9D#32]

theorem test_decode_multiplies_and_swaps :
    wordsMultipliesAndSwaps.map decodeWord =
     [.blxImm true 0x8abcde, .undefCond1111 0x7654321, .mul .cs false 0xc 1 0xa, .mla .cc true 1 0xa 8 5,
      .umull .mi false 1 0xd 0xf 0, .umlal .pl true 4 2 6 0xb, .smull .vs false 7 7 0xd 6,
      .smlal .vc true 0xa 0xc 4 1, .swp .hi 9 0xa 0xc, .swpb .ls 0xc 0xf 7, .undefMulswp .ge 0x5 0xabc 0xd] := by
  decide

def wordsHalfwordSignedDouble : List Word :=
  [0xB0F29CB5#32, 0xC115E0B8#32, 0xD1683CB5#32, 0xE18B80BE#32, 0x01FEDCD5#32, 0x101120D4#32, 0x20747CF5#32,
   0x3097C0FA#32, 0x40EA1CD5#32, 0x510D60D0#32, 0x6160BCF5#32, 0x718300F6#32]

theorem test_decode_halfword_signed_double :
    wordsHalfwordSignedDouble.map decodeWord =
     [.ldrhImm .lt .postW true 2 9 0xc5, .ldrhReg .gt .offset false 5 0xe 8,
      .strhImm .le .preIndexed false 8 3 0xc5, .strhReg .al .offset true 0xb 8 0xe,
      .ldrsbImm .eq .preIndexed true 0xe 0xd 0xc5, .ldrsbReg .ne .postIndexed false 1 2 4,
      .ldrshImm .cs .postW false 4 7 0xc5, .ldrshReg .cc .postIndexed true 7 0xc 0xa,
      .ldrdImm .mi .postW true 0xa 1 0xc5, .ldrdReg .pl .offset false 0xd 6 0,
      .strdImm .vs .preIndexed false 0 0xb 0xc5, .strdReg .vc .offset true 3 0 6] := by
  decide

def wordsStatusAndMisc : List Word :=
  [0x81005000#32, 0x9140A000#32, 0xA12B0007#32, 0xB16C0002#32, 0xC120001D#32, 0xD1200038#32, 0xE1603013#32,
   0x012A5C73#32, 0x1145A35E#32]

theorem test_decode_status_and_misc :
    wordsStatusAndMisc.map decodeWord =
     [.mrsCpsr .hi 5, .mrsSpsr .ls 0xa, .msrCpsrReg .ge 0xb 7, .msrSpsrReg .lt 0xc 2, .bx .gt 0xd,
      .blxReg .le 8, .clz .al 3 3, .bkpt .eq 0xa5c3, .undefMisc .ne 0x2 0x5a35e] := by
  decide

def wordsDpShiftAndToAdd : List Word :=
  [0x20012084#32, 0x30147A3F#32, 0x4027C7CA#32, 0x503A1875#32, 0x604D6E80#32, 0x7050B63B#32, 0x806305C6#32,
   0x90765471#32, 0xA089AC8C#32, 0xB09CF237#32]

theorem test_decode_dp_shift_and_to_add :
    wordsDpShiftAndToAdd.map decodeWord =
     [.andImmShift .cs false 2 1 .lsl 1 4, .andRegShift .cc true 7 4 .lsr 0xa 0xf,
      .eorImmShift .mi false 0xc 7 .asr 0xf 0xa, .eorRegShift .pl true 1 0xa .ror 8 5,
      .subImmShift .vs false 6 0xd .lsl 0x1d 0, .subRegShift .vc true 0xb 0 .lsr 6 0xb,
      .rsbImmShift .hi false 0 3 .asr 0xb 6, .rsbRegShift .ls true 5 6 .ror 4 1,
      .addImmShift .ge false 0xa 9 .lsl 0x19 0xc, .addRegShift .lt true 0xf 0xc .lsr 2 7] := by
  decide

def wordsDpShiftAdcToTeq : List Word :=
  [0xC0AF43C2#32, 0xD0B2907D#32, 0xE0C5EA88#32, 0x00D83E33#32, 0x10EB81CE#32, 0x20FEDC79#32, 0x31110884#32,
   0x41140A3F#32, 0x51370FCA#32, 0x613A0875#32]

theorem test_decode_dp_shift_adc_to_teq :
    wordsDpShiftAdcToTeq.map decodeWord =
     [.adcImmShift .gt false 4 0xf .asr 7 2, .adcRegShift .le true 9 2 .ror 0 0xd,
      .sbcImmShift .al false 0xe 5 .lsl 0x15 8, .sbcRegShift .eq true 3 8 .lsr 0xe 3,
      .rscImmShift .ne false 8 0xb .asr 3 0xe, .rscRegShift .cs true 0xd 0xe .ror 0xc 9,
      .tstImmShift .cc 1 .lsl 0x11 4, .tstRegShift .mi 4 .lsr 0xa 0xf, .teqImmShift .pl 7 .asr 0x1f 0xa,
      .teqRegShift .vs 0xa .ror 8 5] := by
  decide

def wordsDpShiftCmpToMvn : List Word :=
  [0x715D0680#32, 0x8150063B#32, 0x91730DC6#32, 0xA1760471#32, 0xB189A48C#32, 0xC19CF237#32, 0xD1A04BC2#32,
   0xE1B0907D#32, 0x01C5E288#32, 0x11D83E33#32, 0x21E089CE#32, 0x31F0DC79#32]

theorem test_decode_dp_shift_cmp_to_mvn :
    wordsDpShiftCmpToMvn.map decodeWord =
     [.cmpImmShift .vc 0xd .lsl 0xd 0, .cmpRegShift .hi 0 .lsr 6 0xb, .cmnImmShift .ls 3 .asr 0x1b 6,
      .cmnRegShift .ge 6 .ror 4 1, .orrImmShift .lt false 0xa 9 .lsl 9 0xc,
      .orrRegShift .gt true 0xf 0xc .lsr 2 7, .movImmShift .le false 4 .asr 0x17 2,
      .movRegShift .al true 9 .ror 0 0xd, .bicImmShift .eq false 0xe 5 .lsl 5 8,
      .bicRegShift .ne true 3 8 .lsr 0xe 3, .mvnImmShift .cs false 8 .asr 0x13 0xe,
      .mvnRegShift .cc true 0xd .ror 0xc 9] := by
  decide

def wordsMsrAndDpImmediate1 : List Word :=
  [0x4325069E#32, 0x5366079E#32, 0x634ABCDE#32, 0x721A199E#32, 0x822D6A9E#32, 0x9250BB9E#32, 0xA2630C9E#32,
   0xB2965D9E#32, 0xC2A9AE9E#32, 0xD2DCFF9E#32, 0xE2EF409E#32]

theorem test_decode_msr_and_dp_immediate_1 :
    wordsMsrAndDpImmediate1.map decodeWord =
     [.msrCpsrImm .mi 5 6 0x9e, .msrSpsrImm .pl 6 7 0x9e, .undefClass1Move .vs true 0xabcde,
      .andImm .vc true 1 0xa 9 0x9e, .eorImm .hi false 6 0xd 0xa 0x9e, .subImm .ls true 0xb 0 0xb 0x9e,
      .rsbImm .ge false 0 3 0xc 0x9e, .addImm .lt true 5 6 0xd 0x9e, .adcImm .gt false 0xa 9 0xe 0x9e,
      .sbcImm .le true 0xf 0xc 0xf 0x9e, .rscImm .al false 4 0xf 0 0x9e] := by
  decide

def wordsDpImmediate2 : List Word :=
  [0x0312019E#32, 0x1335029E#32, 0x2358039E#32, 0x337B049E#32, 0x439ED59E#32, 0x53A0269E#32, 0x63D4779E#32,
   0x73E0C89E#32, 0x873579BE#32]

theorem test_decode_dp_immediate_2 :
    wordsDpImmediate2.map decodeWord =
     [.tstImm .eq 2 1 0x9e, .teqImm .ne 5 2 0x9e, .cmpImm .cs 8 3 0x9e, .cmnImm .cc 0xb 4 0x9e,
      .orrImm .mi true 0xd 0xe 5 0x9e, .movImm .pl false 2 6 0x9e, .bicImm .vs true 7 4 7 0x9e,
      .mvnImm .vc false 0xc 8 0x9e, .undefClass3 .hi 0x9abcd 0xe] := by
  decide

def wordsWordByteImmediate : List Word :=
  [0x943D6D65#32, 0xA470BD54#32, 0xB4A30D47#32, 0xC4E65D36#32, 0xD539AD29#32, 0xE45CFD18#32, 0x058F4D0B#32,
   0x15E29EFA#32]

theorem test_decode_word_byte_immediate :
    wordsWordByteImmediate.map decodeWord =
     [.ldrtImm .ls false 0xd 6 0xd65, .ldrbtImm .ge false 0 0xb 0xd54, .strtImm .lt true 3 0 0xd47,
      .strbtImm .gt true 6 5 0xd36, .ldrImm .le .preIndexed false 9 0xa 0xd29,
      .ldrbImm .al .postIndexed false 0xc 0xf 0xd18, .strImm .eq .offset true 0xf 4 0xd0b,
      .strbImm .ne .preIndexed true 2 9 0xefa] := by
  decide

def wordsWordByteRegister : List Word :=
  [0x2635E288#32, 0x36783623#32, 0x46AB89CE#32, 0x56EEDD69#32, 0x67112084#32, 0x7774742F#32, 0x8687C7CA#32,
   0x97CA1B65#32]

theorem test_decode_word_byte_register :
    wordsWordByteRegister.map decodeWord =
     [.ldrtReg .cs false 5 0xe .lsl 5 8, .ldrbtReg .cc false 8 3 .lsr 0xc 3,
      .strtReg .mi true 0xb 8 .asr 0x13 0xe, .strbtReg .pl true 0xe 0xd .ror 0x1a 9,
      .ldrReg .vs .offset false 1 2 .lsl 1 4, .ldrbReg .vc .preIndexed false 4 7 .lsr 8 0xf,
      .strReg .hi .postIndexed true 7 0xc .asr 0xf 0xa, .strbReg .ls .offset true 0xa 1 .ror 0x16 5] := by
  decide

def wordsBlockBranch : List Word :=
  [0xA91D5A3C#32, 0xB9705A3C#32, 0xC9D3DA3C#32, 0xD9A65A3C#32, 0xE8495A3C#32, 0x0A8ABCDE#32, 0x1B8ABCDE#32]

theorem test_decode_block_branch :
    wordsBlockBranch.map decodeWord =
     [.ldm1 .ge .db false 0xd 0x5a3c, .ldm2 .lt .db true 0 0x5a3c, .ldm3 .gt .ib false 3 0xda3c,
      .stm1 .le .ib true 6 0x5a3c, .stm2 .al .da false 9 0x5a3c, .b .eq 0x8abcde, .bl .ne 0x8abcde] := by
  decide

def wordsCoprocessorSwi : List Word :=
  [0x2CB240D9#32, 0x3D4551D9#32, 0x4F123456#32, 0x5FABCDEF#32, 0x6E6B84A2#32, 0x7EDC25B3#32, 0x8ECD76B4#32]

theorem test_decode_coprocessor_swi :
    wordsCoprocessorSwi.map decodeWord =
     [.ldc .cs false true false true 2 4 0 0xd9, .stc .cc true false true false 5 5 1 0xd9, .swiHalt .mi,
      .swi .pl 0xabcdef, .cdp .vs 6 0xb 8 4 5 2, .mrc .vc 6 0xc 2 5 5 3, .mcr .hi 6 0xd 7 6 5 4] := by
  decide

/-- The rows are those of the opcode table, in its order. -/
theorem test_decode_rows :
    (wordsMultipliesAndSwaps ++ wordsHalfwordSignedDouble ++ wordsStatusAndMisc ++ wordsDpShiftAndToAdd ++
     wordsDpShiftAdcToTeq ++ wordsDpShiftCmpToMvn ++ wordsMsrAndDpImmediate1 ++ wordsDpImmediate2 ++
     wordsWordByteImmediate ++ wordsWordByteRegister ++ wordsBlockBranch ++ wordsCoprocessorSwi).map (fun w => (decodeWord w).row)
      = (List.range 114).map (· + 1) := by
  decide

/-- The decode tree tests the narrower rows first (R122): a word that a later row's mask also matches. -/
theorem test_decode_first_match :
    decodeWord 0xE0000090#32 = .mul .al false 0 0 0 ∧ decodeWord 0xE1000090#32 = .swp .al 0 0 0 ∧
    decodeWord 0xE10000B0#32 = .strhReg .al .offset false 0 0 0 ∧
    decodeWord 0xE0400090#32 = .undefMulswp .al 0b00100 0 0 ∧ decodeWord 0xE1000050#32 = .undefMisc .al 0b00 0x50 ∧
    decodeWord 0xE1200070#32 = .bkpt .al 0 ∧ decodeWord 0xEF123456#32 = .swiHalt .al := by
  decide

theorem test_decode_bytes :
    decode false [0x05, 0x00, 0xA0, 0xE3, 0x77] = .ok (.movImm .al false 0 0 5, [0x77]) ∧
    decode true [0xE3, 0xA0, 0x00, 0x05] = .ok (.movImm .al false 0 0 5, []) ∧
    (decode false [0x05, 0x00, 0xA0]).toBool = false ∧
    decodeTableWord 32 0xE3A00005 = some (.movImm .al false 0 0 5) := by
  decide

/-! ## Vectors of spec 95_test_vectors, by their ids: one step each -/

/-- The state of section 0 of the vectors: the instruction `w` at 0x100, memory zero but for the words listed. -/
def before (cpsr : Psr) (regs : List (RegCell × Word)) (mem : List (Word × Word)) (w : Nat) : State :=
  let s := { State.reset with
    cpsr := cpsr
    regs := (regs.foldl (fun (b : RegBank) (p : RegCell × Word) => b.set p.1 p.2) RegBank.zero).set .r15 0x100#32
    result := .normal }
  (mem.foldl (fun (t : State) (p : Word × Word) => (t.store .word p.1 p.2).getD t) s).withFetchWord 32 w

/-- The cells asked for, the CPSR, the pc and what the step returned. -/
def seen (cells : List RegCell) : Out → Option (List Word × Psr × Word × Result)
  | .next t => some (cells.map t.getCell, t.cpsr, t.pc, t.result)
  | _ => none

/-- The words of memory asked for, and R1. -/
def stored (as : List Word) : Out → Option (List (Option Word) × Word)
  | .next t => some (as.map (t.load .word), t.getCell .r1)
  | _ => none

/-- Why the step stopped. -/
def stopped : Out → Option Refusal
  | .refused r => some r
  | _ => none

def usr : Psr := 0x10#32
def svc : Psr := 0x13#32

/-- S1, S2, S7, S8. -/
theorem test_step :
    seen [.r0] (step (before usr [] [] 0x03A00001)) = some ([0], usr, 0x104, .normal) ∧
    seen [.r0] (step (before 0x40000010 [] [] 0x03A00001)) = some ([1], 0x40000010, 0x104, .normal) ∧
    seen [] (step ((before usr [] [] 0).setPc 0xFFFC)) = some ([], usr, 0x10000, .normal) ∧
    seen [.r14Abt] (step ((before usr [] [] 0).setPc 0x10000)) =
      some ([0x10000], 0x97, 0x0C, .exception .prefetchAbort) := by
  decide

/-- S4, S5, S6. -/
theorem test_refusals :
    stopped (step (before 0x30 [] [] 0xE1A00000)) = some .thumbState ∧
    stopped (step ((before usr [] [] 0xE1A00000).setPc 0x102)) = some .misalignedFetch ∧
    stopped (step (before 0 [] [] 0xE1A00000)) = some .invalidMode := by
  decide

/-- A1, A10, A11, A12. -/
theorem test_add_sub_sbc :
    seen [.r0] (step (before usr [(.r1, 0x7FFFFFFF), (.r2, 1)] [] 0xE0910002)) =
      some ([0x80000000], 0x90000010, 0x104, .normal) ∧
    seen [.r0] (step (before usr [(.r1, 0x7FFFFFFF), (.r2, 0xFFFFFFFF)] [] 0xE0510002)) =
      some ([0x80000000], 0x90000010, 0x104, .normal) ∧
    seen [.r0] (step (before usr [(.r1, 5), (.r2, 3)] [] 0xE0D10002)) = some ([1], 0x20000010, 0x104, .normal) ∧
    seen [.r0] (step (before usr [] [] 0xE0D10002)) = some ([0xFFFFFFFF], 0x80000010, 0x104, .normal) := by
  decide

/-- A6, A13, A14, A16. -/
theorem test_adc_rsb_rsc_cmn :
    seen [.r0] (step (before 0x20000010 [(.r1, 0x7FFFFFFF)] [] 0xE0B10002)) =
      some ([0x80000000], 0x90000010, 0x104, .normal) ∧
    seen [.r0] (step (before usr [(.r1, 1)] [] 0xE2710000)) = some ([0xFFFFFFFF], 0x80000010, 0x104, .normal) ∧
    seen [.r0] (step (before 0x20000010 [] [] 0xE2F10000)) = some ([0], 0x60000010, 0x104, .normal) ∧
    seen [.r0] (step (before usr [(.r1, 0xFFFFFFFF), (.r2, 1)] [] 0xE1710002)) =
      some ([0], 0x60000010, 0x104, .normal) := by
  decide

/-- A17, A18, A20, A22. -/
theorem test_tst_teq_eor_bic :
    seen [.r0] (step (before usr [(.r1, 0x80000000)] [] 0xE3110102)) = some ([0], 0xA0000010, 0x104, .normal) ∧
    seen [.r0] (step (before 0x10000010 [(.r1, 0x1234)] [] 0xE1310001)) = some ([0], 0x50000010, 0x104, .normal) ∧
    seen [.r0] (step (before 0x30000010 [(.r1, 0xF0F0), (.r2, 0xF0F0)] [] 0xE0310002)) =
      some ([0], 0x70000010, 0x104, .normal) ∧
    seen [.r0] (step (before usr [(.r1, 0xFF), (.r2, 0xF)] [] 0xE1D10002)) = some ([0xF0], usr, 0x104, .normal) := by
  decide

/-- A26, A29, A31, and section 1.4 RRX. -/
theorem test_shifts :
    seen [.r0] (step (before 0x20000010 [(.r2, 1), (.r3, 33)] [] 0xE1B00312)) =
      some ([0], 0x40000010, 0x104, .normal) ∧
    seen [.r0] (step (before usr [(.r2, 0x80000000), (.r3, 200)] [] 0xE1B00352)) =
      some ([0xFFFFFFFF], 0xA0000010, 0x104, .normal) ∧
    seen [.r0] (step (before usr [(.r2, 0x80000001), (.r3, 0x101)] [] 0xE1B00372)) =
      some ([0xC0000000], 0xA0000010, 0x104, .normal) ∧
    seen [.r0] (step (before 0x20000010 [(.r2, 1)] [] 0xE1B00062)) =
      some ([0x80000000], 0xA0000010, 0x104, .normal) := by
  decide

/-- A36 (U1), A37 and A38 (the mode return and U2), A39. -/
theorem test_dp_pc :
    seen [.r0] (step (before usr [(.r1, 1), (.r2, 2)] [] 0xE0810F12)) = some ([0], usr, 0x104, .normal) ∧
    seen [] (step ((before 0x93 [(.r14Svc, 0x204)] [] 0xE1B0F00E).setSpsr .svc 0x60000010)) =
      some ([], 0x60000010, 0x204, .normal) ∧
    seen [] (step (before 0x93 [(.r14Svc, 0x204)] [] 0xE1B0F00E)) = some ([], 0x93, 0x104, .normal) ∧
    seen [] (step (before usr [(.r2, 0x80000200)] [] 0xE1B0F002)) = some ([], 0x80000010, 0x80000200, .normal) := by
  decide

/-- L2, L5, L9, L10. -/
theorem test_ldr :
    seen [.r0, .r1] (step (before usr [(.r1, 0x1000)] [(0x1004, 0xDEADBEEF)] 0xE5B10004)) =
      some ([0xDEADBEEF, 0x1004], usr, 0x104, .normal) ∧
    seen [.r0] (step (before usr [(.r1, 0x1000)] [(0x1000, 0x44332211)] 0xE5910003)) =
      some ([0x33221144], usr, 0x104, .normal) ∧
    seen [.r0] (step (before usr [(.r1, 0x1000), (.r2, 8)] [(0x1004, 0x77)] 0xE7910062)) =
      some ([0x77], usr, 0x104, .normal) ∧
    seen [] (step (before usr [(.r1, 0x1000)] [(0x1000, 0x2001)] 0xE591F000)) = some ([], 0x30, 0x2000, .normal) := by
  decide

/-- L11, L19, L20 (U13). -/
theorem test_ldr_abort_ldrt_ldrb :
    seen [.r0, .r1, .r14Abt] (step (before usr [(.r1, 0xFFFC)] [] 0xE5B10004)) =
      some ([0, 0xFFFC, 0x100], 0x97, 0x10, .exception .dataAbort) ∧
    seen [.r0, .r1] (step (before svc [(.r1, 0x1000)] [(0x1000, 0x5555)] 0xE4B10004)) =
      some ([0x5555, 0x1004], svc, 0x104, .normal) ∧
    seen [] (step (before usr [(.r1, 0x1000)] [] 0xE5D1F000)) = some ([], usr, 0x104, .normal) := by
  decide

/-- L15, L16, L17. -/
theorem test_str_strb :
    stored [0x1000] (step (before usr [(.r0, 0xAABBCCDD), (.r1, 0x1000)] [] 0xE5810002)) =
      some ([some 0xAABBCCDD], 0x1000) ∧
    stored [0x1000] (step (before usr [(.r1, 0x1000)] [] 0xE581F000)) = some ([some 0x108], 0x1000) ∧
    stored [0x1000] (step (before usr [(.r0, 0xAABBCCDD), (.r1, 0x1003)] [] 0xE4C10001)) =
      some ([some 0xDD000000], 0x1004) := by
  decide

/-- H1, H3, H4, H8. -/
theorem test_ldrh_ldrsh_ldrsb :
    seen [.r0] (step (before usr [(.r1, 0x1000)] [(0x1000, 0x80FF1234)] 0xE1D100B2)) =
      some ([0x80FF], usr, 0x104, .normal) ∧
    seen [.r0] (step (before usr [(.r1, 0x1000)] [(0x1000, 0x80FF1234)] 0xE1D100F2)) =
      some ([0xFFFF80FF], usr, 0x104, .normal) ∧
    seen [.r0] (step (before usr [(.r1, 0x1000)] [(0x1000, 0x80FF1234)] 0xE1D100D3)) =
      some ([0xFFFFFF80], usr, 0x104, .normal) ∧
    seen [.r0, .r1] (step (before usr [(.r1, 0x1000), (.r2, 0x10)] [(0x1000, 0xBEEF)] 0xE01100B2)) =
      some ([0xBEEF, 0xFF0], usr, 0x104, .normal) := by
  decide

/-- H6, H7 (U19), H9, H10, H12 (U24). -/
theorem test_strh_ldrd_strd :
    stored [0x1010] (step (before usr [(.r0, 0xAABBCCDD), (.r1, 0x1000)] [] 0xE1E101B2)) =
      some ([some 0xCCDD0000], 0x1012) ∧
    seen [.r0] (step (before usr [(.r1, 0x1000)] [(0x1000, 0x80FF1234)] 0xE1D100B1)) =
      some ([0], usr, 0x104, .normal) ∧
    seen [.r2, .r3] (step (before usr [(.r1, 0x1000)] [(0x1008, 0x11111111), (0x100C, 0x22222222)] 0xE1C120D8)) =
      some ([0x11111111, 0x22222222], usr, 0x104, .normal) ∧
    stored [0x1008, 0x100C] (step (before usr [(.r1, 0x1000), (.r2, 0xA), (.r3, 0xB)] [] 0xE1E120F8)) =
      some ([some 0xA, some 0xB], 0x1008) ∧
    seen [.r2] (step (before usr [(.r1, 0x1000)] [(0x1004, 5)] 0xE1C120D4)) = some ([0], usr, 0x104, .normal) := by
  decide

def slots : List (Word × Word) := [(0xFF8, 0xA2), (0xFFC, 0xA3), (0x1000, 0xA4), (0x1004, 0xA5), (0x1008, 0xA6)]

/-- M1, M3, M11. -/
theorem test_ldm :
    seen [.r0, .r1, .r2, .r3] (step (before usr [(.r0, 0x1000)] slots 0xE8B0000E)) =
      some ([0x100C, 0xA4, 0xA5, 0xA6], usr, 0x104, .normal) ∧
    seen [.r0, .r1, .r2, .r3] (step (before usr [(.r0, 0x1000)] slots 0xE830000E)) =
      some ([0xFF4, 0xA2, 0xA3, 0xA4], usr, 0x104, .normal) ∧
    seen [.r13Usr] (step (before usr [(.r13Usr, 0x2000)] [(0x2000, 0x401)] 0xE8BD8000)) =
      some ([0x2004], 0x30, 0x400, .normal) := by
  decide

/-- M15, M17, M21 (U29). -/
theorem test_ldm_s :
    seen [.r13Usr, .r14Usr, .r13Svc] (step (before svc [(.r0, 0x1000)] [(0x1000, 0x1111), (0x1004, 0x2222)] 0xE8D06000)) =
      some ([0x1111, 0x2222, 0], svc, 0x104, .normal) ∧
    seen [.r0, .r13Svc] (step ((before svc [(.r13Svc, 0x2000)] [(0x2000, 5), (0x2004, 0x800)] 0xE8FD8001).setSpsr .svc
      0x40000010)) = some ([5, 0x2008], 0x40000010, 0x800, .normal) ∧
    seen [.r0] (step (before usr [(.r0, 0x1000)] [(0x1000, 7)] 0xE8D00001)) =
      some ([0x1000], usr, 0x104, .normal) := by
  decide

/-- M8, M12, M13 (U28), M16. -/
theorem test_stm :
    stored [0xFF4, 0xFF8, 0xFFC] (step (before usr [(.r0, 0x1000), (.r1, 0x11), (.r2, 0x22), (.r3, 0x33)] [] 0xE920000E)) =
      some ([some 0x11, some 0x22, some 0x33], 0x11) ∧
    stored [0x1000, 0x1004] (step (before usr [(.r1, 0x1000), (.r2, 0x22)] [] 0xE8A10006)) =
      some ([some 0x1000, some 0x22], 0x1008) ∧
    stored [0x1000] (step (before usr [(.r1, 9), (.r2, 0x1000)] [] 0xE8A20006)) = some ([some 0], 9) ∧
    stored [0x1000] (step (before 0x11 [(.r0, 0x1000), (.r8Usr, 8), (.r8Fiq, 0xF8)] [] 0xE8C00100)) =
      some ([some 8], 0) := by
  decide

/-- M18, M19: memory ends at 0x1008. -/
theorem test_block_abort :
    seen [.r0, .r1] (step { before usr [(.r0, 0x1000)] [(0x1000, 1), (0x1004, 2)] 0xE8B0000E with
      params := { Params.given with memSize := 0x1008 } }) = some ([0x1000, 0], 0x97, 0x10, .exception .dataAbort) ∧
    stored [0x1000, 0x1004] (step { before usr [(.r0, 0x1000), (.r1, 0x11), (.r2, 0x22)] [] 0xE8A0000E with
      params := { Params.given with memSize := 0x1008 } }) = some ([some 0x11, some 0x22], 0x11) := by
  decide

/-- B2, B3, B5. -/
theorem test_branch :
    seen [] (step (before usr [] [] 0xEAFFFFFE)) = some ([], usr, 0x100, .normal) ∧
    seen [.r14Usr] (step (before usr [] [] 0xEB000001)) = some ([0x104], usr, 0x10C, .normal) ∧
    seen [] (step (before usr [] [] 0xEA800000)) = some ([], usr, 0xFE000108, .normal) := by
  decide

/-- B7, B8 (U4), B10, B11, B12. -/
theorem test_status :
    seen [.r0] (step ((before svc [] [] 0xE14F0000).setSpsr .svc 0x20000010)) =
      some ([0x20000010], svc, 0x104, .normal) ∧
    seen [.r0] (step (before usr [(.r0, 0x1234)] [] 0xE14F0000)) = some ([0x1234], usr, 0x104, .normal) ∧
    seen [] (step (before usr [] [] 0xE328F4FF)) = some ([], 0xF0000010, 0x104, .normal) ∧
    seen [] (step (before usr [] [] 0xE321F01F)) = some ([], usr, 0x104, .normal) ∧
    seen [] (step (before svc [] [] 0xE321F0D2)) = some ([], 0xD2, 0x104, .normal) := by
  decide

/-- B14 (U8), B16, B17 (U7), B20 (U5). -/
theorem test_msr_register :
    seen [] (step (before svc [] [] 0xE321F015)) = some ([], svc, 0x104, .normal) ∧
    seen [] (step (before svc [(.r0, 0xFFFFFFDF)] [] 0xE12FF000)) = some ([], 0xF00000DF, 0x104, .normal) ∧
    seen [] (step (before svc [(.r0, 0xFFFFFFFF)] [] 0xE12FF000)) = some ([], svc, 0x104, .normal) ∧
    seen [] (step (before usr [] [] 0xE128F00F)) = some ([], usr, 0x104, .normal) := by
  decide

/-- B18. -/
theorem test_msr_spsr :
    (match step (before svc [(.r0, 0xFFFFFFFF)] [] 0xE16FF000) with
      | .next t => some t.spsrs.svc
      | _ => none) = some 0xF00000FF := by
  decide

/-- B22, B23, B25, B28. -/
theorem test_swi_and_undefined :
    seen [.r14Svc] (step (before 0x80000010 [] [] 0xEF000010)) =
      some ([0x104], 0x80000093, 0x08, .exception .softwareInterrupt) ∧
    seen [] (step (before usr [] [] 0xEF123456)) = some ([], usr, 0x104, .halt) ∧
    seen [.r14Und] (step (before usr [] [] 0xEE000000)) = some ([0x104], 0x9B, 4, .exception .undefinedInstruction) ∧
    seen [.r14Und] (step (before usr [] [] 0xFA000000)) = some ([0x104], 0x9B, 4, .exception .undefinedInstruction) := by
  decide

/-- U-2, U-4, U-5 (U32), U-6, U-9. -/
theorem test_multiplies :
    seen [.r0] (step (before 0x30000010 [(.r1, 0x80000000), (.r2, 1)] [] 0xE0100291)) =
      some ([0x80000000], 0xB0000010, 0x104, .normal) ∧
    seen [.r0] (step (before usr [(.r1, 7), (.r2, 6), (.r3, 0xFFFFFFFF)] [] 0xE0203291)) =
      some ([0x29], usr, 0x104, .normal) ∧
    seen [.r1] (step (before usr [(.r1, 7), (.r2, 6)] [] 0xE0010291)) = some ([7], usr, 0x104, .normal) ∧
    seen [.r0, .r1] (step (before usr [(.r2, 0xFFFFFFFF), (.r3, 0xFFFFFFFF)] [] 0xE0810392)) =
      some ([1, 0xFFFFFFFE], usr, 0x104, .normal) ∧
    seen [.r0, .r1] (step (before usr [(.r0, 2), (.r2, 0xFFFFFFFF), (.r3, 2)] [] 0xE0F10392)) =
      some ([0, 0], 0x40000010, 0x104, .normal) := by
  decide

/-- U-7, U-8. -/
theorem test_umlal_smull :
    seen [.r0, .r1] (step (before usr [(.r0, 1), (.r2, 0xFFFFFFFF), (.r3, 1)] [] 0xE0A10392)) =
      some ([0, 1], usr, 0x104, .normal) ∧
    seen [.r0, .r1] (step (before usr [(.r2, 0xFFFFFFFF), (.r3, 2)] [] 0xE0C10392)) =
      some ([0xFFFFFFFE, 0xFFFFFFFF], usr, 0x104, .normal) := by
  decide

/-- U-12, U-13. -/
theorem test_swaps :
    stored [0x1000] (step (before usr [(.r1, 0x1001), (.r2, 0x1234)] [(0x1000, 0xAABBCCDD)] 0xE1410092)) =
      some ([some 0xAABB34DD], 0x1001) ∧
    seen [.r0] (step (before usr [(.r1, 0x1001), (.r2, 0x55)] [(0x1000, 0x44332211)] 0xE1010092)) =
      some ([0x11443322], usr, 0x104, .normal) := by
  decide

/-- U-16, U-17, U-20, U-21, U-22 (U37). -/
theorem test_bx_blx_clz_bkpt :
    seen [] (step (before usr [(.r1, 0x2001)] [] 0xE12FFF11)) = some ([], 0x30, 0x2000, .normal) ∧
    seen [.r14Usr] (step (before usr [(.r1, 0x2000)] [] 0xE12FFF31)) = some ([0x104], usr, 0x2000, .normal) ∧
    seen [.r0] (step (before usr [(.r1, 0x10000)] [] 0xE16F0F11)) = some ([15], usr, 0x104, .normal) ∧
    seen [.r0] (step (before usr [] [] 0xE16F0F11)) = some ([32], usr, 0x104, .normal) ∧
    seen [.r14Abt] (step (before usr [] [] 0xE1200070)) = some ([0x100], 0x97, 0x0C, .exception .prefetchAbort) ∧
    seen [] (step (before usr [] [] 0x11200070)) = some ([], usr, 0x104, .normal) := by
  decide

/-- U-23, U-25, U-26. -/
theorem test_unrouted_policy :
    stopped (step { before usr [] [] 0xE0000291 with params := { Params.given with unrouted := .refuse } }) = some .unrouted ∧
    seen [.r14Und] (step { before usr [] [] 0xE0000291 with params := { Params.given with unrouted := .undefined } }) =
      some ([0x104], 0x9B, 4, .exception .undefinedInstruction) ∧
    seen [] (step { before usr [] [] 0x00000291 with params := { Params.given with unrouted := .refuse } }) =
      some ([], usr, 0x104, .normal) := by
  decide

/-- X1, X2, X3, X5. -/
theorem test_raise :
    ((before 0x20000010 [] [] 0).raise .interrupt).1 = .taken 6 ∧
    ((before 0x20000010 [] [] 0).raise .interrupt).2.cpsr = 0x20000092 ∧
    (before 0x20000090 [] [] 0).raise .interrupt = (.suppressed, before 0x20000090 [] [] 0) ∧
    ((before 0x20000010 [] [] 0).raise .fastInterrupt).2.cpsr = 0x200000D1 ∧
    ((before 0x600000D2 [] [] 0).raise .reset).2.cpsr = 0x600000D3 ∧
    ((before 0x600000D2 [] [] 0).raise .reset).2.getCell .r14Svc = 0x100 := by
  decide

/-- A core left at the default policy refuses MUL after Reset (R7, R380). -/
theorem test_default_policy :
    stopped (step ((State.resetWith (Params.default 0x10000 false)).withFetchWord 32 0xE0000291)) = some .unrouted := by
  decide

/-- A run ends at the first Halt, and goes on after a suppressed raise (R186, R423). -/
theorem test_run_ends_at_halt :
    ((before 0x90#32 [] [] 0xEF123456).runCalls [.raise .interrupt, .step, .step]).1 = .halted ∧
    ((before 0x90#32 [] [] 0xEF123456).runCalls [.raise .interrupt]).1 = .cutShort ∧
    ((before 0x30#32 [] [] 0xEF123456).runCalls [.step]).1 = .refused .thumbState := by decide

/-- `State.reset` is R470's example of INITIAL_STATE with Reset raised (R471, R472). -/
theorem test_reset_is_raised :
    (State.created RegBank.zero 0xD3 ⟨0, 0, 0, 0, 0⟩ Params.given).raise .reset = (.taken 1, State.reset) := by
  decide

/-- The pseudo-instructions encode to the words that R146 and the examples of R253, R313 and R316 give. -/
theorem test_assembly :
    encode asmNop = 0xE1A00000#32 ∧ encode (asmPush 0x4001) = 0xE92D4001#32 ∧ encode (asmPop 0x8001) = 0xE8BD8001#32 ∧
    (asmShift 0 2 .rrx).map encode = some 0xE1A00062#32 ∧ (asmShift 0 2 (.lsr 32)).map encode = some 0xE1A00022#32 ∧
    0xE3A00005#32 ∈ (asmLdrConst 0 5 0x200 0x100).map encode ∧
    (asmLdrConst 0 0x12345678 0x108 0x100).map encode = [0xE59F0000#32] ∧
    maskFlg = 0b1000#4 ∧ fieldMask true false false false = 0b0001#4 := by decide

/-! ## Every obligation's hypotheses are met, each clause at a boundary of its range. The condition is AL where a witness does
not show it: it holds of every CPSR. -/

/-- The smallest and the largest memory, and the parameters of `State.reset`, are legal. -/
theorem test_hyp_ResetMeetsInvariant :
    (Params.default 1 true).wf = true ∧ (Params.default (2 ^ 32) false).wf = true ∧ Params.given.wf = true ∧
    (Params.default 0 false).wf = false := by decide

/-- The parameters with another policy, or another end of memory. -/
def withPolicy (p : UnroutedPolicy) (s : State) : State := { s with params := { s.params with unrouted := p } }
def withSize (n : Nat) (s : State) : State := { s with params := { s.params with memSize := n } }

/-- The step goes on. -/
def goes : Out → Bool
  | .next _ => true
  | _ => false

/-- What the step returned. -/
def returned : Out → Option Result
  | .next t => some t.result
  | _ => none

theorem test_hyp_DecodeOfEncode :
    (Instr.ldm3 .al .ia true 13 0x8001).wf = true ∧ (Instr.undefMulswp .al 0b00100 0xFFF 0xF).wf = true := by decide

theorem test_hyp_OnlySbzSboBitsAreIgnored :
    0x000F0000#32 &&& ~~~sbzMask (decodeWord 0xE1A00001) = 0#32 ∧
    decodeWord (0xE1A00001 ^^^ 0x000F0000#32) = decodeWord 0xE1A00001 := by decide

theorem test_hyp_StepChecks :
    (before 0 [] [] 0).mode? = none ∧
    ((before 0x30 [] [] 0).mode?.isSome = true ∧ thumb (before 0x30 [] [] 0).cpsr = true) ∧
    let s := (before usr [] [] 0).setPc 1
    s.mode?.isSome = true ∧ thumb s.cpsr = false ∧ s.pc.toNat % 4 ≠ 0 := by decide

theorem test_hyp_FailedFetch :
    let s := (before usr [] [] 0).setPc 0x10000
    let t := (before usr [] [] 0).setPc 0xFFFFFFFC
    (s.runnable = true ∧ s.params.memSize < s.pc.toNat + 4) ∧
    (t.runnable = true ∧ t.params.memSize < t.pc.toNat + 4) := by decide

theorem test_hyp_StepRunsDecodedInstruction :
    let s := ((before usr [] [] 0).setPc 0xFFFC).withFetchWord 32 0xE3A00005
    s.runnable = true ∧ s.pc.toNat + 4 ≤ s.params.memSize ∧
    decode s.params.bigEndian (s.mem.readBytes s.pc.toNat 4) = .ok (.movImm .al false 0 0 5, []) := by decide

theorem test_hyp_FailedConditionSkips :
    let s := before usr [] [] 0x03A00001
    (Instr.movImm .eq false 0 0 1).cond? = some .eq ∧ condHolds .eq s.cpsr = false ∧
    s.runnable = true ∧ s.load .word s.pc = some 0x03A00001 ∧ Cond.ofCode (bits 0x03A00001 28 4) = some .eq := by decide

theorem test_hyp_StepKeepsInvariant :
    (before usr [] [] 0xE3A00005).inv = true ∧ goes (step (before usr [] [] 0xE3A00005)) = true := by decide

/-- All reserved bits set, in the CPSR and the SPSRs: the step and the raise go on. -/
theorem test_hyp_ReservedBitsAreKept :
    let s := { before 0x0FFFFF10 [] [] 0xEF000010 with
      spsrs := ⟨0x0FFFFF00, 0x0FFFFF00, 0x0FFFFF00, 0x0FFFFF00, 0x0FFFFF00⟩ }
    reservedField s.cpsr = 0xFFFFF ∧ reservedField s.spsrs.fiq = 0xFFFFF ∧ reservedField s.spsrs.irq = 0xFFFFF ∧
    reservedField s.spsrs.svc = 0xFFFFF ∧ reservedField s.spsrs.abt = 0xFFFFF ∧ reservedField s.spsrs.und = 0xFFFFF ∧
    goes (step s) = true := by decide

/-- UserModeLeavesOnlyByException and UserStepKeepsPrivilegedState: USR that stays in USR, and USR that leaves it by SWI. -/
theorem test_hyp_UserMode :
    (before usr [] [] 0xE3A00005).mode? = some .usr ∧
    seen [] (step (before usr [] [] 0xE3A00005)) = some ([], usr, 0x104, .normal) ∧
    seen [] (step (before usr [] [] 0xEF000010)) = some ([], 0x93, 8, .exception .softwareInterrupt) ∧
    Mode.ofCode (modeField 0x93) = some .svc := by decide

theorem test_hyp_RunnableStepGoesOn :
    (before usr [] [] 0xE0000291).runnable = true ∧ (before usr [] [] 0xE0000291).params.unrouted ≠ .refuse := by decide

theorem test_hyp_RefusalsAreListed :
    stopped (step (before 0 [] [] 0)) = some .invalidMode ∧ stopped (step (before 0x30 [] [] 0)) = some .thumbState ∧
    stopped (step ((before usr [] [] 0).setPc 2)) = some .misalignedFetch ∧
    stopped (step (withPolicy .refuse (before usr [] [] 0xE0000291))) = some .unrouted := by decide

theorem test_hyp_HaltOnlyBySentinel :
    returned (step (before usr [] [] 0xEF123456)) = some .halt := by decide

theorem test_hyp_StoredWordIsFetched :
    let s := (before usr [] [] 0).setPc 0xFFFC
    s.mem.wf = true ∧ s.runnable = true ∧ (s.store .word s.pc 0xE3A00005).isSome = true := by decide

/-- The masks clear (CauseTable, HostRaise), and set (HostRaise); FastInterrupt taken first; two orders of the causes. -/
theorem test_hyp_HostRaise :
    irqDisable (before usr [] [] 0).cpsr = false ∧ fiqDisable (before usr [] [] 0).cpsr = false ∧
    irqDisable (before 0x90 [] [] 0).cpsr = true ∧ fiqDisable (before 0x50 [] [] 0).cpsr = true ∧
    ((before usr [] [] 0).raise .fastInterrupt).1 = .taken 7 ∧
    [HostCause.interrupt, .reset].Perm [.reset, .interrupt] := by decide

theorem test_hyp_SoftwareExceptions :
    condHolds .al (before usr [] [] 0).cpsr = true ∧ (before usr [] [] 0).params.unrouted = .architectural ∧
    condHolds .ne (before usr [] [] 0).cpsr = true ∧ Cond.ne ≠ .al := by decide

/-- A row and a word for each clause. -/
theorem test_hyp_UndefinedEncodings :
    raisesUndefined (.cdp .al 0 0 0 0 0 0) = true ∧ condHolds .al (before usr [] [] 0).cpsr = true ∧
    bits 0xF3A00001 28 4 = 0b1111#4 ∧ bits 0xEC000000 25 3 = 0b110#3 ∧
    (bits 0xEE000000 25 3 = 0b111#3 ∧ bit 0xEE000000 24 = false) ∧
    (bits 0xE6000010 25 3 = 0b011#3 ∧ bit 0xE6000010 4 = true) ∧
    (bits 0xE3000000 25 3 = 0b001#3 ∧ bits 0xE3000000 23 2 = 0b10#2 ∧ bits 0xE3000000 20 2 = 0b00#2) ∧
    (bits 0xE0400090 25 3 = 0b000#3 ∧ bits 0xE0400090 4 4 = 0b1001#4 ∧ isMulSwpOp (bits 0xE0400090 20 5) = false) ∧
    (bits 0xE1000050 25 3 = 0b000#3 ∧ bits 0xE1000050 23 2 = 0b10#2 ∧ bit 0xE1000050 20 = false ∧
      isMiscOp (bits 0xE1000050 21 2) (bits 0xE1000050 4 4) = false) := by decide

/-- A load that aborts, an STM that aborts at its second slot, and an STRD that aborts at either word. -/
theorem test_hyp_ExceptionsArePrecise :
    let s := before usr [(.r1, 0xFFFC)] [] 0
    let u := withSize 0xFFFC (before usr [(.r1, 0xFFF8)] [] 0)
    s.result = .normal ∧ s.mem.wf = true ∧
    returned (exec (.ldrImm .al .preIndexed true 1 0 4) s) = some (.exception .dataAbort) ∧
    storesSeveral (.ldrImm .al .preIndexed true 1 0 4) = false ∧
    (blockView (.stm1 .al .ia false 1 0b1100)).isSome = true ∧
    returned (exec (.stm1 .al .ia false 1 0b1100) s) = some (.exception .dataAbort) ∧
    miscView (.strdImm .al .offset true 1 2 0) = some ⟨.al, .strd, .offset, true, 1, 2, .imm 0⟩ ∧
    returned (exec (.strdImm .al .offset true 1 2 0) u) = some (.exception .dataAbort) ∧ u.inMemory .word 0xFFF8 = true ∧
    returned (exec (.strdImm .al .offset true 1 2 8) u) = some (.exception .dataAbort) := by decide

theorem test_hyp_RegisterAccess :
    (before usr [] [] 0).mode? = some .usr ∧ (before 0x1F [] [] 0).mode? = some .sys ∧
    (before 0x1B [] [] 0).mode? = some .und ∧ (0#4 : RegNo) ≠ 15#4 := by decide

/-- The last address of each width that lies in memory, and the first that does not. -/
theorem test_hyp_MemoryInterface :
    let s := before usr [] [] 0
    s.mem.wf = true ∧ (s.load .word 0xFFFC).isSome = true ∧ (s.load .word 0xFFFD).isSome = false ∧
    (s.load .half 0xFFFE).isSome = true ∧ (s.store .byte 0xFFFF 1).isSome = true ∧
    (s.store .byte 0x10000 1).isSome = false := by decide

theorem test_hyp_ShifterImmediateShift :
    (0#5).toNat = 0 ∧ (1#5).toNat ≠ 0 ∧ (31#5).toNat ≠ 0 := by decide

/-- The amounts at which the rows of R203 meet. -/
theorem test_hyp_ShifterRegisterShift :
    [0, 1, 31, 32, 33, 255].map (fun n => (((before usr [(.r3, n)] [] 0).x 3).toNat % 256)) = [0, 1, 31, 32, 33, 255] ∧
    ((before usr [(.r3, 0x100)] [] 0).x 3).toNat % 256 = 0 ∧
    ((before usr [(.r3, 0x40)] [] 0).x 3).toNat % 256 % 32 = 0 := by decide

theorem test_hyp_DataProcessingResults :
    dpView (.addImmShift .al true 0 1 .lsl 0 2) = some ⟨.al, .add, true, 0, 1, .immShift .lsl 0 2⟩ ∧
    dpCompares .add = false ∧ (⟨.al, .add, true, 0, 1, .immShift .lsl 0 2⟩ : DpView).unpredictable = false ∧
    condHolds .al (before usr [] [] 0).cpsr = true := by decide

theorem test_hyp_Comparisons :
    dpView (.cmpRegShift .al 1 .lsr 3 2) = some ⟨.al, .cmp, true, 0, 1, .regShift .lsr 3 2⟩ ∧
    dpCompares .cmp = true ∧ (⟨.al, .cmp, true, 0, 1, .regShift .lsr 3 2⟩ : DpView).unpredictable = false := by decide

/-- The ordinary write with S = 0, and with S = 1 in USR; the mode return, and U2. -/
theorem test_hyp_DataProcessingToPc :
    dpView (.movImmShift .al true 15 .lsl 0 14) = some ⟨.al, .mov, true, 15, 0, .immShift .lsl 0 14⟩ ∧
    dpView (.movImmShift .al false 15 .lsl 0 14) = some ⟨.al, .mov, false, 15, 0, .immShift .lsl 0 14⟩ ∧
    (⟨.al, .mov, true, 15, 0, .immShift .lsl 0 14⟩ : DpView).unpredictable = false ∧
    (before usr [] [] 0).spsr? = none ∧ ((before svc [] [] 0).setSpsr .svc usr).spsr? = some usr ∧
    legalMode usr = true ∧ (before svc [] [] 0).spsr? = some 0 ∧ legalMode 0 = false := by decide

def ldrPre : LsView := ⟨.al, true, false, .preIndexed, true, 1, 0, .imm 4⟩
def ldrPc : LsView := ⟨.al, true, false, .offset, true, 1, 15, .imm 0⟩
def ldrbPost : LsView := ⟨.al, true, true, .postIndexed, true, 1, 0, .imm 4⟩
def strPre : LsView := ⟨.al, false, false, .preIndexed, true, 1, 0, .imm 4⟩
def strbOff : LsView := ⟨.al, false, true, .offset, true, 1, 0, .reg .lsl 0 2⟩

/-- R1 + 4 is the last word of memory. -/
theorem test_hyp_LoadWord :
    let s := before usr [(.r1, 0xFFF8)] [] 0
    lsView (.ldrImm .al .preIndexed true 1 0 4) = some ldrPre ∧ ldrPre.unpredictable = false ∧ ldrPre.wb = true ∧
    ldrPre.loads = true ∧ ldrPre.isByte = false ∧ s.load .word (ldrPre.addrIn s &&& 0xFFFFFFFC#32) = some 0 ∧
    lsView (.ldrImm .al .offset true 1 15 0) = some ldrPc ∧ ldrPc.unpredictable = false ∧ ldrPc.rd = 15#4 := by decide

theorem test_hyp_LoadByte :
    let s := before usr [(.r1, 0xFFFF)] [] 0
    lsView (.ldrbImm .al .postIndexed true 1 0 4) = some ldrbPost ∧ ldrbPost.loads = true ∧ ldrbPost.isByte = true ∧
    ldrbPost.unpredictable = false ∧ ldrbPost.wb = true ∧ s.inMemory .byte (ldrbPost.addrIn s) = true := by decide

theorem test_hyp_StoreWordOrByte :
    let s := before usr [(.r1, 0xFFF8), (.r2, 7)] [] 0
    (lsView (.strImm .al .preIndexed true 1 0 4) = some strPre ∧ strPre.unpredictable = false ∧
      strPre.loads = false ∧ strPre.isByte = false ∧ s.inMemory .word (strPre.addrIn s &&& 0xFFFFFFFC#32) = true) ∧
    (lsView (.strbReg .al .offset true 1 0 .lsl 0 2) = some strbOff ∧ strbOff.unpredictable = false ∧
      strbOff.loads = false ∧ strbOff.isByte = true ∧ s.inMemory .byte (strbOff.addrIn s) = true) ∧
    s.mem.wf = true := by decide

def misc (o : MiscOp) : MiscView := ⟨.al, o, .preIndexed, true, 1, 2, .imm 8⟩

theorem test_hyp_LoadHalfOrSigned :
    let s := before usr [(.r1, 0xFFF6)] [] 0
    miscView (.ldrhImm .al .preIndexed true 1 2 8) = some (misc .ldrh) ∧
    miscView (.ldrsbImm .al .preIndexed true 1 2 8) = some (misc .ldrsb) ∧
    miscView (.ldrshImm .al .preIndexed true 1 2 8) = some (misc .ldrsh) ∧
    [MiscOp.ldrh, .ldrsb, .ldrsh].all (fun o => !(misc o).unpredictable && !(misc o).misaligned s &&
      (s.load o.width ((misc o).addrIn s)).isSome) = true := by decide

theorem test_hyp_StoreHalf :
    let s := before usr [(.r1, 0xFFF6)] [] 0
    miscView (.strhImm .al .preIndexed true 1 2 8) = some (misc .strh) ∧ (misc .strh).unpredictable = false ∧
    (misc .strh).misaligned s = false ∧ s.mem.wf = true ∧ s.inMemory .half ((misc .strh).addrIn s) = true := by decide

theorem test_hyp_LoadDouble :
    let s := before usr [(.r1, 0xFFF0)] [] 0
    miscView (.ldrdImm .al .preIndexed true 1 2 8) = some (misc .ldrd) ∧ (misc .ldrd).unpredictable = false ∧
    (misc .ldrd).misaligned s = false ∧ s.load .word ((misc .ldrd).addrIn s) = some 0 ∧
    s.load .word ((misc .ldrd).addrIn s + 4#32) = some 0 := by decide

/-- Both words in memory; and memory that ends between them. -/
theorem test_hyp_StoreDouble :
    let s := before usr [(.r1, 0xFFF0)] [] 0
    let t := withSize 0xFFFC s
    let v := misc .strd
    miscView (.strdImm .al .preIndexed true 1 2 8) = some v ∧ v.unpredictable = false ∧ v.misaligned s = false ∧
    s.mem.wf = true ∧ s.inMemory .word (v.addrIn s) = true ∧ s.inMemory .word (v.addrIn s + 4#32) = true ∧
    v.misaligned t = false ∧ t.inMemory .word (v.addrIn t) = true ∧
    t.inMemory .word (v.addrIn t + 4#32) = false := by decide

/-- A word, a byte, a halfword and both words of a doubleword outside memory. -/
theorem test_hyp_TransferAborts :
    let s := before usr [(.r1, 0xFFFC)] [] 0
    let t := before usr [(.r1, 0xFFF8)] [] 0
    s.inMemory .word (ldrPre.addrIn s &&& 0xFFFFFFFC#32) = false ∧
    (before usr [(.r1, 0x10000)] [] 0).inMemory .byte (ldrbPost.addrIn (before usr [(.r1, 0x10000)] [] 0)) = false ∧
    (misc .ldrh).misaligned t = false ∧ t.inMemory .half ((misc .ldrh).addrIn t) = false ∧
    (misc .ldrd).misaligned t = false ∧ t.inMemory .word ((misc .ldrd).addrIn t) = false ∧
    (let u := withSize 0xFFFC (before usr [(.r1, 0xFFF0)] [] 0)
     (misc .ldrd).misaligned u = false ∧ u.inMemory .word ((misc .ldrd).addrIn u + 4#32) = false) := by decide

theorem test_hyp_BlockAddresses :
    (0x8000#16 : BitVec 16) ≠ 0#16 ∧ (0x8001#16).getLsbD (15#4).toNat = true ∧ 15#4 ∈ regsOf 0x8001 := by decide

/-- LDM(1) with write-back and R15, its last slot the last word of memory. -/
theorem test_hyp_LoadMultiple :
    let s := before usr [(.r13Usr, 0xFFF8)] [] 0
    let v : BlockView := ⟨.al, .ldm1, .ia, true, 13, 0x8001⟩
    blockView (.ldm1 .al .ia true 13 0x8001) = some v ∧ v.unpredictable s = false ∧
    (∀ k, k < popcount v.list → s.inMemory .word (slotAddr v.md (s.x v.rn) v.list k) = true) ∧
    v.list.getLsbD (15#4).toNat = true ∧ v.list.getLsbD (0#4).toNat = true ∧
    s.load .word (slotAddr v.md (s.x v.rn) v.list (slotOf v.list (15#4).toNat)) = some 0 := by decide

theorem test_hyp_LoadMultipleUser :
    let s := before svc [(.r0, 0x1000)] [] 0
    let v : BlockView := ⟨.al, .ldm2, .ia, false, 0, 0x6000⟩
    blockView (.ldm2 .al .ia false 0 0x6000) = some v ∧ (Instr.ldm2 .al .ia false 0 0x6000).wf = true ∧
    v.unpredictable s = false ∧ v.list.getLsbD (14#4).toNat = true ∧
    (∀ k, k < popcount v.list → s.inMemory .word (slotAddr v.md (s.x v.rn) v.list k) = true) := by decide

/-- The SPSR with a legal mode, and with an illegal one (U31). -/
theorem test_hyp_LoadMultipleReturn :
    let s := (before svc [(.r13Svc, 0x2000)] [] 0).setSpsr .svc 0x40000010
    let v : BlockView := ⟨.al, .ldm3, .ia, true, 13, 0x8001⟩
    blockView (.ldm3 .al .ia true 13 0x8001) = some v ∧ (Instr.ldm3 .al .ia true 13 0x8001).wf = true ∧
    v.unpredictable s = false ∧ s.spsr? = some 0x40000010 ∧ legalMode 0x40000010 = true ∧
    (∀ k, k < popcount v.list → s.inMemory .word (slotAddr v.md (s.x v.rn) v.list k) = true) ∧
    v.unpredictable (s.setSpsr .svc 0) = false ∧ (s.setSpsr .svc 0).spsr? = some 0 ∧ legalMode 0 = false := by decide

/-- STM(1) with the base lowest in the list, and STM(2). -/
theorem test_hyp_StoreMultiple :
    let s := before svc [(.r0, 0xFFF8)] [] 0
    let v : BlockView := ⟨.al, .stm1, .ia, true, 0, 0x8001⟩
    let u : BlockView := ⟨.al, .stm2, .ia, false, 0, 0x8001⟩
    blockView (.stm1 .al .ia true 0 0x8001) = some v ∧ blockView (.stm2 .al .ia false 0 0x8001) = some u ∧
    v.unpredictable s = false ∧ u.unpredictable s = false ∧ s.mem.wf = true ∧
    (∀ k, k < popcount v.list → s.inMemory .word (slotAddr v.md (s.x v.rn) v.list k) = true) := by decide

/-- A load and a store whose second slot is the first outside memory. -/
theorem test_hyp_BlockAborts :
    let s := before usr [(.r0, 0xFFFC)] [] 0
    let v : BlockView := ⟨.al, .ldm1, .ia, true, 0, 0x000E⟩
    let u : BlockView := ⟨.al, .stm1, .ia, true, 0, 0x000E⟩
    blockView (.ldm1 .al .ia true 0 0x000E) = some v ∧ blockView (.stm1 .al .ia true 0 0x000E) = some u ∧
    v.unpredictable s = false ∧ u.unpredictable s = false ∧ s.mem.wf = true ∧ 1 < popcount v.list ∧
    (∀ j, j < 1 → s.inMemory .word (slotAddr v.md (s.x v.rn) v.list j) = true) ∧
    s.inMemory .word (slotAddr v.md (s.x v.rn) v.list 1) = false := by decide

/-- U1; U9 and U12; U14, U24 and U19; U25, U28 and U29. -/
theorem test_hyp_UnpredictableNoOps :
    let s := before usr [(.r1, 0x1001)] [] 0
    (⟨.al, .add, false, 0, 1, .regShift .lsl 15 2⟩ : DpView).unpredictable = true ∧
    (⟨.al, true, false, .preIndexed, true, 15, 0, .imm 0⟩ : LsView).unpredictable = true ∧
    (⟨.al, true, false, .postW, true, 1, 0, .reg .lsl 0 1⟩ : LsView).unpredictable = true ∧
    (⟨.al, .ldrh, .postW, true, 1, 2, .imm 0⟩ : MiscView).unpredictable = true ∧
    (misc .ldrd).misaligned s = true ∧ (misc .strh).misaligned s = true ∧
    (⟨.al, .ldm1, .ia, false, 15, 1⟩ : BlockView).unpredictable s = true ∧
    (⟨.al, .stm1, .ia, true, 1, 3⟩ : BlockView).unpredictable s = true ∧
    (⟨.al, .ldm2, .ia, false, 0, 1⟩ : BlockView).unpredictable s = true := by decide

/-- StatusToRegister, the MSR forms and Branches: a mode with an SPSR, and USR. -/
theorem test_hyp_StatusTransfers :
    (before svc [] [] 0).mode? = some .svc ∧ (before usr [] [] 0).mode? = some .usr ∧
    (before svc [] [] 0).spsrs.get? .svc = some 0 ∧ condHolds .al (before svc [] [] 0).cpsr = true ∧
    (0#4 : RegNo) ≠ 15#4 := by decide

/-- Each clause of the MSR statements: Rm = 15; USR; U7, U8; a legal control byte, and no control byte. -/
theorem test_hyp_RegisterToStatus :
    let s := before svc [(.r0, 0x33), (.r1, 0x15), (.r2, 0xFFFFFFDF)] [] 0
    let v := fun rm : RegNo => (⟨.al, false, 0b1001, .reg rm⟩ : MsrView)
    msrView (.msrCpsrReg .al 0b1001 2) = some (v 2) ∧ (v 15).readsPc = true ∧ (v 2).readsPc = false ∧
    (v 2).mask.getLsbD 0 = true ∧ bit ((v 0).operandIn s) 5 = true ∧ legalMode ((v 1).operandIn s) = false ∧
    bit ((v 2).operandIn s) 5 = false ∧ legalMode ((v 2).operandIn s) = true ∧
    msrView (.msrSpsrImm .al 0b1000 4 0xF0) = some ⟨.al, true, 0b1000, .imm 4 0xF0⟩ ∧
    (⟨.al, true, 0b1000, .imm 4 0xF0⟩ : MsrView).mask.getLsbD 0 = false := by decide

theorem test_hyp_UnroutedPolicy :
    (Instr.bx .eq 1).isUnrouted = true ∧ (Instr.bx .eq 1).cond? = some .eq ∧ condHolds .eq 0x40000010 = true ∧
    (withPolicy .refuse (before usr [] [] 0)).params.unrouted = .refuse ∧
    (withPolicy .undefined (before usr [] [] 0)).params.unrouted = .undefined ∧
    condHolds .eq (before usr [] [] 0).cpsr = false := by decide

/-- Multiply, BranchExchange and CountLeadingZeros: condition, policy, and register numbers on either side. -/
theorem test_hyp_Multiply :
    condHolds .al (before usr [] [] 0).cpsr = true ∧ (before usr [] [] 0).params.unrouted = .architectural ∧
    (0#4 : RegNo) ≠ 15#4 ∧ (1#4 : RegNo) ≠ 15#4 ∧ (0#4 : RegNo) ≠ 1#4 := by decide

theorem test_hyp_MultiplyLong :
    longView (.smlal .al true 1 0 3 2) = some ⟨.al, true, true, true, 1, 0, 3, 2⟩ ∧
    (⟨.al, true, true, true, 1, 0, 3, 2⟩ : LongView).unpredictable = false ∧
    (⟨.al, true, true, true, 1, 1, 3, 2⟩ : LongView).unpredictable = true := by decide

/-- A word, a byte, both at the end of memory, U34, and an access outside memory. -/
theorem test_hyp_Swap :
    let s := before usr [(.r1, 0xFFFF)] [] 0
    let t := before usr [(.r1, 0x10000)] [] 0
    swapView (.swp .al 1 0 2) = some ⟨.al, false, 1, 0, 2⟩ ∧ swapView (.swpb .al 1 0 2) = some ⟨.al, true, 1, 0, 2⟩ ∧
    (⟨.al, false, 1, 0, 2⟩ : SwapView).unpredictable = false ∧ (⟨.al, true, 1, 1, 2⟩ : SwapView).unpredictable = true ∧
    s.mem.wf = true ∧ s.load .word (s.x 1 &&& 0xFFFFFFFC#32) = some 0 ∧ s.inMemory .byte (s.x 1) = true ∧
    t.inMemory .byte (t.x 1) = false ∧ t.inMemory .word (t.x 1 &&& 0xFFFFFFFC#32) = false := by decide

end Sys2Proof.Tests
end

section
/-! SUPPORT. The laws of the reset state: its fields, the fields of its CPSR (R58), and what makes it meet the invariant;
then the proof of O11. -/

namespace Sys2Proof.Machine

/-! ## The fields of the reset state -/

@[simp] theorem resetWith_params (p : Params) : (State.resetWith p).params = p := rfl
@[simp] theorem resetWith_mem (p : Params) : (State.resetWith p).mem = [] := rfl
@[simp] theorem resetWith_cpsr (p : Params) : (State.resetWith p).cpsr = 0x000000D3#32 := rfl
@[simp] theorem resetWith_result (p : Params) : (State.resetWith p).result = .exception .reset := rfl
@[simp] theorem pc_resetWith (p : Params) : (State.resetWith p).pc = 0#32 := rfl

/-! ## The CPSR of the reset state (R58) -/

@[simp] theorem mode?_resetWith (p : Params) : (State.resetWith p).mode? = some .svc := by
  rw [State.mode?, resetWith_cpsr]
  decide

theorem thumb_resetWith (p : Params) : thumb (State.resetWith p).cpsr = false := by
  rw [resetWith_cpsr]
  decide

theorem irqDisable_resetWith (p : Params) : irqDisable (State.resetWith p).cpsr = true := by
  rw [resetWith_cpsr]
  decide

theorem fiqDisable_resetWith (p : Params) : fiqDisable (State.resetWith p).cpsr = true := by
  rw [resetWith_cpsr]
  decide

/-! ## The invariant and the checks of a step -/

/-- CPSR.M is legal exactly where it names a mode (R47). -/
theorem legalMode_cpsr (s : State) : legalMode s.cpsr = s.mode?.isSome := rfl

/-- Memory in which nothing is listed is in canonical form. -/
@[simp] theorem Memory.wf_nil : Memory.wf [] = true := rfl

/-- Memory in which nothing is listed lies inside an array of any size. -/
@[simp] theorem Memory.within_nil (n : Nat) : Memory.within [] n = true := rfl

/-- The parameters alone decide whether the reset state meets the invariant. -/
theorem inv_resetWith (p : Params) : (State.resetWith p).inv = p.wf := by
  rw [State.inv, legalMode_cpsr]
  simp

/-- The pc of the reset state is aligned, as its first fetch needs (R171). -/
theorem pcAligned_resetWith (p : Params) : (State.resetWith p).pcAligned = true := by
  rw [State.pcAligned, pc_resetWith]
  decide

/-- The reset state passes the three checks of R171. -/
theorem runnable_resetWith (p : Params) : (State.resetWith p).runnable = true := by
  rw [State.runnable, mode?_resetWith, thumb_resetWith, pcAligned_resetWith]
  rfl

/-- The parameters of `State.reset` are legal (R91). -/
theorem wf_given : Params.given.wf = true := by decide

/-- Settles O11: the legal parameters are what the invariant asks of a reset state beyond its fixed fields. -/
theorem resetMeetsInvariant : Obligations.ResetMeetsInvariant := by
  unfold Obligations.ResetMeetsInvariant
  refine ⟨fun p hp => ?_, ⟨Params.given, wf_given, rfl⟩, fun n b => ⟨rfl, rfl, rfl⟩⟩
  have hinv : (State.resetWith p).inv = true := (inv_resetWith p).trans hp
  exact ⟨hinv, runnable_resetWith p, pc_resetWith p, mode?_resetWith p, thumb_resetWith p, irqDisable_resetWith p,
    fiqDisable_resetWith p, resetWith_result p, resetWith_params p⟩

end Sys2Proof.Machine
end

section
/-! SUPPORT. The laws of register and status-register access: the bank map (R41), the frame of a cell write (R44,
R45), and which modes have an SPSR (R50, R51); with the proofs of O26 and O27. -/

namespace Sys2Proof.Machine

/-! ## The bank map -/

/-- Settles O26: each mode's row of R41 is the model's own table, read at the sixteen register numbers. -/
theorem bankMap : Obligations.BankMap := ⟨rfl, rfl, rfl, rfl, rfl, rfl, rfl⟩

/-! ## The frame of a cell write -/

theorem mode_of_mode? {s : State} {m : Mode} (h : s.mode? = some m) : s.mode = m := by
  rw [State.mode, h, Option.getD_some]

theorem getCell_setCell_self (s : State) (c : RegCell) (v : Word) : (s.setCell c v).getCell c = v := by
  rw [getCell_setCell, if_pos rfl]

theorem sameCellsBut_setCell (s : State) (c : RegCell) (v : Word) : sameCellsBut [c] s (s.setCell c v) := by
  intro d hd
  rw [getCell_setCell, if_neg (List.mem_singleton.not.1 hd)]

theorem sameStatus_setCell (s : State) (c : RegCell) (v : Word) : sameStatus s (s.setCell c v) :=
  ⟨setCell_cpsr .., setCell_spsrs .., setCell_params .., setCell_result ..⟩

theorem sameMemory_setCell (s : State) (c : RegCell) (v : Word) : sameMemory s (s.setCell c v) :=
  ⟨fun _ => rfl, setCell_mem ..⟩

/-- In a legal mode a register write is a write of the cell that the mode's bank gives it (R44). -/
theorem setX_eq_setCell {s : State} {m : Mode} (h : s.mode? = some m) (i : RegNo) (v : Word) :
    s.setX i v = s.setCell (slot m i) v := by
  rw [State.setX, mode_of_mode? h]

/-- In a legal mode a register read is ia + 8 or the cell that the mode's bank gives it (R43). -/
theorem x_eq_getCell {s : State} {m : Mode} (h : s.mode? = some m) (i : RegNo) :
    s.x i = if i = 15#4 then s.ia + 8#32 else s.getCell (slot m i) := by
  rw [State.x, mode_of_mode? h]

/-! ## The SPSR accessors -/

/-- USR and SYS, and no other mode, have no SPSR (R50). -/
theorem SpsrBank.get?_eq_none_iff (b : SpsrBank) (m : Mode) : b.get? m = none ↔ m = .usr ∨ m = .sys := by
  cases m <;> simp [SpsrBank.get?]

theorem spsr?_of_mode? {s : State} {m : Mode} (h : s.mode? = some m) : s.spsr? = s.spsrs.get? m := by
  rw [State.spsr?, mode_of_mode? h]

theorem hostReadSpsr_of_none {s : State} (h : s.spsr? = none) : s.hostReadSpsr = (0#32, false) := by
  simp only [State.hostReadSpsr, h]

theorem hostReadSpsr_of_some {s : State} {p : Psr} (h : s.spsr? = some p) : s.hostReadSpsr = (p, true) := by
  simp only [State.hostReadSpsr, h]

theorem hostWriteSpsr_of_none {s : State} (v : Psr) (h : s.spsr? = none) : s.hostWriteSpsr v = (s, false) := by
  simp only [State.hostWriteSpsr, h]

theorem hostWriteSpsr_of_some {s : State} {p : Psr} (v : Psr) (h : s.spsr? = some p) :
    s.hostWriteSpsr v = (s.setSpsr s.mode v, true) := by
  simp only [State.hostWriteSpsr, h]

/-- Where the current mode has an SPSR, it reads back what was written to it. -/
theorem spsr?_setSpsr_mode {s : State} {p : Psr} (v : Psr) (h : s.spsr? = some p) :
    (s.setSpsr s.mode v).spsr? = some v := by
  have hget : s.spsrs.get? s.mode = some p := h
  rw [State.spsr?, mode_setSpsr, setSpsr_spsrs, SpsrBank.get?_set, if_pos rfl, hget, Option.map_some]

/-- Settles O27: an access goes through the bank map to one cell, and a mode has an SPSR unless it is USR or SYS. -/
theorem registerAccess : Obligations.RegisterAccess := by
  unfold Obligations.RegisterAccess
  intro s m i v hm
  rw [setX_eq_setCell hm]
  refine ⟨x_eq_getCell hm i, getCell_setCell_self .., sameCellsBut_setCell _ _ _, fun j hj => mt (slot_inj m j i).1 hj,
    rfl, getCell_setCell_self .., sameCellsBut_setCell _ _ _, sameStatus_setCell .., sameMemory_setCell ..,
    sameStatus_setCell .., sameMemory_setCell .., fun hno => ?_, fun husr hsys => ?_⟩
  · have hnone : s.spsr? = none := (spsr?_of_mode? hm).trans ((SpsrBank.get?_eq_none_iff ..).2 hno)
    exact ⟨hostReadSpsr_of_none hnone, hostWriteSpsr_of_none v hnone⟩
  · have hsome : s.spsrs.get? m ≠ none := fun h => ((SpsrBank.get?_eq_none_iff ..).1 h).elim husr hsys
    obtain ⟨p, hp⟩ := Option.ne_none_iff_exists'.1 hsome
    have hspsr : s.spsr? = some p := (spsr?_of_mode? hm).trans hp
    rw [hostWriteSpsr_of_some v hspsr]
    refine ⟨hostReadSpsr_of_some (spsr?_setSpsr_mode v hspsr), fun n hn => ?_⟩
    rw [setSpsr_spsrs, SpsrBank.get?_set, mode_of_mode? hm, if_neg hn]

end Sys2Proof.Machine
end

section
/-! SUPPORT. What every instruction, every step and every host-raised exception keeps: the legal mode (R49), the
reserved PSR bits (R55), the parameters (R7) and the form and bound of memory (R91); then the proofs of O10 and O12. -/

namespace Sys2Proof.Machine

/-- What no step and no exception entry breaks: the part that a quiet effect, a privileged effect, the halt and an
exception entry have in common. -/
structure Keeps (s t : State) : Prop where
  legal : legalMode s.cpsr = true → legalMode t.cpsr = true
  reserved : ∀ k, reservedAre k s → reservedAre k t
  params : t.params = s.params
  mem : keepsMem s t

theorem Keeps.trans {s t u : State} (h : Keeps s t) (h' : Keeps t u) : Keeps s u where
  legal := h'.legal ∘ h.legal
  reserved k := h'.reserved k ∘ h.reserved k
  params := h'.params.trans h.params
  mem := keepsMem_trans h.mem h'.mem

/-- A change of the register cells and of the result alone. -/
theorem keeps_of_eq {s t : State} (hc : t.cpsr = s.cpsr) (hs : t.spsrs = s.spsrs) (hm : t.mem = s.mem)
    (hp : t.params = s.params) : Keeps s t where
  legal h := by rw [hc]; exact h
  reserved _ h := reservedAre_congr hc hs h
  params := hp
  mem := keepsMem_of_eq hm hp

/-! ## The four effects of an instruction -/

theorem Quiet.keeps {s t : State} (q : Quiet s t) : Keeps s t where
  legal h := by rw [legalMode, modeField_of_status q.status]; exact h
  reserved _ h := reserved_of_quiet q h
  params := q.params
  mem := q.mem

theorem Privileged.keeps {s t : State} (p : Privileged s t) : Keeps s t := ⟨p.legal, p.reserved, p.params, p.mem⟩

theorem keeps_halt (s : State) : Keeps s s.halt :=
  keeps_of_eq (halt_cpsr s) (halt_spsrs s) (halt_mem s) (halt_params s)

/-- An exception entry moves the CPSR into an SPSR, so that the reserved bits keep their common value (R422). -/
theorem reservedAre_enter {k : BitVec 20} {s : State} (e : Cause) (r : Word) (h : reservedAre k s) :
    reservedAre k (s.enter e r) := by
  have hcpsr : reservedField (entryCpsr e s.cpsr) = k := (reservedField_entryCpsr ..).trans h.1
  have hspsrs : reservedAre k { s with spsrs := (s.enter e r).spsrs } := by
    rw [enter_spsrs]
    split
    · exact reservedAre_set e.target s.cpsr h.1 h _ rfl rfl
    · exact h
  exact ⟨hcpsr, hspsrs.2⟩

theorem keeps_enter (s : State) (e : Cause) (r : Word) : Keeps s (s.enter e r) where
  legal _ := legalMode_entryCpsr e s.cpsr
  reserved _ h := reservedAre_enter e r h
  params := enter_params ..
  mem := keepsMem_of_eq (enter_mem ..) (enter_params ..)

/-- The completed writes of an instruction that then aborts. -/
theorem keeps_withMem {s : State} {m : Memory} (h : keepsMem s { s with mem := m }) : Keeps s { s with mem := m } :=
  ⟨id, fun _ => id, rfl, h⟩

theorem Effect.keeps {i : Instr} {s t : State} (h : Effect i s t) : Keeps s t := by
  obtain q | p | ⟨rfl, -⟩ | ⟨m, e, rfl, hm, -⟩ := h
  · exact q.keeps
  · exact p.keeps
  · exact keeps_halt s
  · exact (keeps_withMem hm).trans (keeps_enter ..)

/-! ## A step and a host-raised exception -/

theorem exec_keeps {i : Instr} {s t : State} (h : exec i s = .next t) : Keeps s t := by
  have hends := exec_ends i s
  rw [h] at hends
  exact Effect.keeps hends

theorem keeps_advance (s : State) : Keeps s s.advance :=
  keeps_of_eq (advance_cpsr s) (advance_spsrs s) (advance_mem s) (advance_params s)

theorem step_keeps {s t : State} (h : step s = .next t) : Keeps s t := by
  obtain ⟨-, ⟨-, rfl⟩ | ⟨w, -, hexec⟩⟩ := step_next h
  · exact keeps_enter ..
  · exact (keeps_advance s).trans (exec_keeps hexec)

theorem raise_keeps (s : State) (e : HostCause) : Keeps s (s.raise e).2 := by
  unfold State.raise
  split
  · exact (Quiet.refl s).keeps
  · exact keeps_enter ..

/-! ## The invariant -/

theorem inv_iff (s : State) :
    s.inv = true ↔ s.params.wf = true ∧ s.mem.wf = true ∧ s.mem.within s.params.memSize = true ∧
      legalMode s.cpsr = true := by
  simp only [State.inv, Bool.and_eq_true, and_assoc]

theorem Keeps.inv {s t : State} (h : Keeps s t) (hs : s.inv = true) : t.inv = true := by
  obtain ⟨hparams, hwf, hwithin, hlegal⟩ := (inv_iff s).1 hs
  refine (inv_iff t).2 ⟨?_, h.mem.1 hwf, h.mem.2 hwithin, h.legal hlegal⟩
  rw [h.params]
  exact hparams

/-- Settles O10: each part of the invariant is among what a step keeps. -/
theorem stepKeepsInvariant : Obligations.StepKeepsInvariant := by
  unfold Obligations.StepKeepsInvariant
  exact fun s t hs h => ⟨(step_keeps h).inv hs, (step_keeps h).params⟩

/-- Settles O12: the reserved bits are among what a step and a raise keep. -/
theorem reservedBitsAreKept : Obligations.ReservedBitsAreKept := by
  unfold Obligations.ReservedBitsAreKept
  exact fun k s hk => ⟨fun t h => (step_keeps h).reserved k hk, fun e => (raise_keeps s e).reserved k hk⟩

end Sys2Proof.Machine
end

section
/-! SUPPORT. The value a read of the memory interface gives, as the weighted sum of its bytes (R94), and what a store
leaves runnable and fetchable (R109); then the proofs of O28 and O18. -/

namespace Sys2Proof.Machine

/-! ## The value of a run of bytes (R94) -/

/-- One more low byte, where no bit is shifted out of the word. -/
theorem toNat_littleEndian_cons (b : Byte) (bs : List Byte) (h : (littleEndian bs).toNat < 2 ^ 24) :
    (littleEndian (b :: bs)).toNat = b.toNat + 2 ^ 8 * (littleEndian bs).toNat := by
  have hb : b.toNat < 2 ^ 8 := b.isLt
  have hshift : (littleEndian bs <<< 8).toNat = (littleEndian bs).toNat <<< 8 := by
    rw [BitVec.toNat_shiftLeft, Nat.shiftLeft_eq]
    exact Nat.mod_eq_of_lt (by omega)
  have hzext : (b.setWidth 32).toNat = b.toNat := BitVec.toNat_setWidth_of_le (by decide)
  rw [littleEndian, BitVec.toNat_or, hshift, hzext, ← Nat.shiftLeft_add_eq_or_of_lt hb, Nat.shiftLeft_eq]
  omega

/-- The bytes of a run fill no more than their own bits of the word. -/
theorem toNat_littleEndian_lt (bs : List Byte) (h : bs.length ≤ 4) :
    (littleEndian bs).toNat < 2 ^ (8 * bs.length) := by
  induction bs with
  | nil => decide
  | cons b bs ih =>
    rw [List.length_cons] at h
    have hrest := ih (by omega)
    have hbound : 2 ^ (8 * bs.length) ≤ 2 ^ 24 := Nat.pow_le_pow_right (by decide) (by omega)
    have hb : b.toNat < 2 ^ 8 := b.isLt
    rw [toNat_littleEndian_cons b bs (by omega), List.length_cons, Nat.mul_succ, Nat.pow_add]
    omega

/-- The value of bytes, the least significant first: byte `k` has the weight `2 ^ (8 * k)`. -/
theorem toNat_littleEndian_map (f : Nat → Byte) (n : Nat) (h : n ≤ 4) :
    (littleEndian ((List.range n).map f)).toNat = ((List.range n).map fun k => (f k).toNat * 2 ^ (8 * k)).sum := by
  induction n generalizing f with
  | zero => rfl
  | succ n ih =>
    have hlen : ((List.range n).map (f ∘ Nat.succ)).length ≤ 3 := by
      rw [List.length_map, List.length_range]
      omega
    have hlt : (littleEndian ((List.range n).map (f ∘ Nat.succ))).toNat < 2 ^ 24 :=
      (toNat_littleEndian_lt _ (by omega)).trans_le (Nat.pow_le_pow_right (by decide) (by omega))
    rw [List.range_succ_eq_map, List.map_cons, List.map_map, toNat_littleEndian_cons _ _ hlt, ih _ (by omega),
      ← List.sum_map_mul_left, List.map_cons, List.map_map, List.sum_cons, Nat.mul_zero, Nat.pow_zero, Nat.mul_one]
    congr 3
    funext k
    simp only [Function.comp_apply, Nat.succ_eq_add_one]
    ring

/-- A list given by position, turned around. -/
theorem reverse_map_range {α : Type} (f : Nat → α) (n : Nat) :
    ((List.range n).map f).reverse = (List.range n).map fun k => f (n - 1 - k) := by
  rw [← List.map_reverse, List.range_eq_range', List.reverse_range', List.map_map, List.range_eq_range']
  simp only [Nat.zero_add, Function.comp_def]

/-- In either byte order the value is the weighted sum of the bytes at rising addresses. -/
theorem toNat_assemble_map (bigEndian : Bool) (f : Nat → Byte) (n : Nat) (h : n ≤ 4) :
    (assemble bigEndian ((List.range n).map f)).toNat =
      ((List.range n).map fun k => (f k).toNat * 2 ^ (8 * (if bigEndian then n - 1 - k else k))).sum := by
  cases bigEndian with
  | false => exact toNat_littleEndian_map f n h
  | true =>
    rw [assemble, if_pos rfl, reverse_map_range, toNat_littleEndian_map _ n h, ← List.sum_reverse, reverse_map_range]
    refine congrArg List.sum (List.map_congr_left fun k hk => ?_)
    have hle : k ≤ n - 1 := Nat.le_sub_one_of_lt (List.mem_range.1 hk)
    rw [if_pos rfl, Nat.sub_sub_self hle]

theorem Memory.readBytes_eq_map (m : Memory) (a n : Nat) :
    m.readBytes a n = (List.range n).map fun k => m.read (a + k) := by
  induction n generalizing a with
  | zero => rfl
  | succ n ih =>
    rw [Memory.readBytes, ih, List.range_succ_eq_map, List.map_cons, List.map_map]
    congr 1
    refine List.map_congr_left fun k _ => ?_
    rw [Function.comp_apply, Nat.succ_eq_add_one, Nat.add_right_comm, Nat.add_assoc]

/-! ## A read of the memory interface -/

theorem Width.bytes_le (w : Width) : w.bytes ≤ 4 := by cases w <;> decide

theorem toNat_low (w : Width) (v : Word) : (w.low v).toNat = v.toNat % 2 ^ (8 * w.bytes) := by
  cases w with
  | byte => exact (BitVec.toNat_setWidth_of_le (by decide)).trans (BitVec.toNat_setWidth ..)
  | half => exact (BitVec.toNat_setWidth_of_le (by decide)).trans (BitVec.toNat_setWidth ..)
  | word => exact (Nat.mod_eq_of_lt v.isLt).symm

/-- A read that answers ok gives the bytes at its addresses in the byte order of memory (R93, R94). -/
theorem load_eq_some {s : State} {w : Width} {a d : Word} (h : s.load w a = some d) :
    d = assemble s.params.bigEndian (s.mem.readBytes a.toNat w.bytes) := by
  have hin : s.inMemory w a = true := by rw [← load_isSome, h, Option.isSome_some]
  rw [load_of_inMemory s w a hin, Option.some_inj] at h
  exact h.symm

theorem toNat_load {s : State} {w : Width} {a d : Word} (h : s.load w a = some d) :
    d.toNat = ((List.range w.bytes).map fun k =>
      (s.byteAt (a.toNat + k)).toNat * 2 ^ (8 * (if s.params.bigEndian then w.bytes - 1 - k else k))).sum := by
  rw [load_eq_some h, Memory.readBytes_eq_map, toNat_assemble_map _ _ _ w.bytes_le]
  rfl

/-! ## A store of the memory interface -/

theorem getCell_of_regs_eq {s t : State} (h : t.regs = s.regs) (d : RegCell) : t.getCell d = s.getCell d := by
  rw [State.getCell, State.getCell, h]

theorem pc_store {s t : State} {w : Width} {a v : Word} (h : s.store w a v = some t) : t.pc = s.pc := by
  obtain ⟨hregs, -⟩ := store_frame s t w a v h
  exact getCell_of_regs_eq hregs .r15

/-- The three checks of R171 read the CPSR and the pc alone. -/
theorem runnable_congr {s t : State} (hcpsr : t.cpsr = s.cpsr) (hpc : t.pc = s.pc) : t.runnable = s.runnable := by
  simp only [State.runnable, State.mode?, State.pcAligned, hcpsr, hpc]

theorem runnable_store {s t : State} {w : Width} {a v : Word} (h : s.store w a v = some t) :
    t.runnable = s.runnable := by
  obtain ⟨-, hcpsr, -⟩ := store_frame s t w a v h
  exact runnable_congr hcpsr (pc_store h)

/-- A word stored at the pc is fetched (R109). -/
theorem fetch_store_pc {s t : State} {v : Word} (hm : s.mem.wf = true) (h : s.store .word s.pc v = some t) :
    t.fetch = some v := by
  rw [State.fetch, pc_store h]
  exact load_store s t .word s.pc v hm h

/-! ## The two statements -/

/-- Settles O28: whether an access succeeds is its bound alone; a read is the sum of its bytes, and a write is read back
as its low bytes. -/
theorem memoryInterface : Obligations.MemoryInterface := by
  unfold Obligations.MemoryInterface
  intro s w a v
  rw [load_isSome, store_isSome]
  refine ⟨inMemory_iff s w a, inMemory_iff s w a, fun d => toNat_load, fun hm t h => ?_⟩
  obtain ⟨hregs, hstatus⟩ := store_frame s t w a v h
  exact ⟨store_keeps_wf s t w a v h hm, fun b hb => byteAt_store s t w a v b hm h hb,
    fun d _ => getCell_of_regs_eq hregs d, hstatus, w.low v, load_store s t w a v hm h, toNat_low w v⟩

/-- Settles O18: the store leaves the state runnable, and the word stored is the word fetched. -/
theorem storedWordIsFetched : Obligations.StoredWordIsFetched := by
  unfold Obligations.StoredWordIsFetched
  intro s t w hm hrun h
  rw [step_of_runnable ((runnable_store h).trans hrun), fetch_store_pc hm h]

end Sys2Proof.Machine
end

section
/-! SUPPORT. Agreement of words up to ignored bits (R139), which with a layout of fields is agreement field by field;
then the layout of every format of R123–R136. -/

namespace Sys2Proof

/-! ## Agreement of two words -/

/-- The words differ at most in the bits of `k`. -/
def Agrees (k v w : Word) : Prop := (v ^^^ w) &&& ~~~k = 0#32

theorem agrees_iff {k v w : Word} : Agrees k v w ↔ ∀ i, i < 32 → bit k i = false → bit v i = bit w i := by
  refine ⟨fun h i hi hk => ?_, fun h => BitVec.eq_of_getLsbD_eq fun i hi => ?_⟩
  · have hbit := congrArg (fun x => x.getLsbD i) h
    have hk' : k.getLsbD i = false := hk
    show v.getLsbD i = w.getLsbD i
    simpa [hi, hk', -BitVec.getLsbD_eq_getElem] using hbit
  · cases hk : bit k i with
    | false => simp [show v.getLsbD i = w.getLsbD i from h i hi hk]
    | true => simp [show k.getLsbD i = true from hk]

theorem Agrees.refl (k w : Word) : Agrees k w w := agrees_iff.2 fun _ _ _ => rfl

theorem Agrees.symm {k v w : Word} (h : Agrees k v w) : Agrees k w v :=
  agrees_iff.2 fun i hi hk => (agrees_iff.1 h i hi hk).symm

theorem Agrees.trans {k u v w : Word} (h : Agrees k u v) (h' : Agrees k v w) : Agrees k u w :=
  agrees_iff.2 fun i hi hk => (agrees_iff.1 h i hi hk).trans (agrees_iff.1 h' i hi hk)

/-! ## A field, bit by bit -/

theorem getLsbD_bits (w : Word) {lo n i : Nat} (h : i < n) : (bits w lo n).getLsbD i = bit w (lo + i) := by
  rw [bits, BitVec.getLsbD_extractLsb', decide_eq_true h, Bool.true_and, bit]

theorem getElem_bits (w : Word) {lo n i : Nat} (h : i < n) : (bits w lo n)[i] = bit w (lo + i) := by
  rw [← BitVec.getLsbD_eq_getElem, getLsbD_bits w h]

theorem bits_eq_iff_bit {w : Word} {lo n : Nat} {x : BitVec n} :
    bits w lo n = x ↔ ∀ i, i < n → bit w (lo + i) = x.getLsbD i := by
  refine ⟨?_, fun h => BitVec.eq_of_getLsbD_eq fun i hi => (getLsbD_bits w hi).trans (h i hi)⟩
  rintro rfl i hi
  exact (getLsbD_bits w hi).symm

theorem extractLsb'_bits (w : Word) {lo n i m : Nat} (h : i + m ≤ n) :
    (bits w lo n).extractLsb' i m = bits w (lo + i) m := by
  refine (bits_eq_iff_bit.2 fun j hj => ?_).symm
  rw [BitVec.getLsbD_extractLsb', decide_eq_true hj, Bool.true_and, getLsbD_bits w (by omega), Nat.add_assoc]

@[simp] theorem bits_zero (w : Word) (lo : Nat) : bits w lo 0 = 0#0 := BitVec.eq_nil _

/-- A test of a field against a literal, as tests of its bits. -/
theorem bits_succ_eq_literal (w : Word) (lo n v : Nat) :
    bits w lo (n + 1) = BitVec.ofNat (n + 1) v ↔
      bit w lo = v.testBit 0 ∧ bits w (lo + 1) n = BitVec.ofNat n (v / 2) := by
  rw [bits_eq_iff_bit, bits_eq_iff_bit, Nat.forall_lt_succ_left]
  refine and_congr ?_ (forall₂_congr fun i hi => ?_)
  · rw [BitVec.getLsbD_ofNat, decide_eq_true n.succ_pos, Bool.true_and, Nat.add_zero]
  · rw [BitVec.getLsbD_ofNat, BitVec.getLsbD_ofNat, decide_eq_true hi, decide_eq_true (Nat.succ_lt_succ hi),
      Nat.testBit_add_one, Nat.add_right_comm, Nat.add_assoc]

@[simp] theorem bits_eq_flag (w : Word) (lo : Nat) (b : Bool) : bits w lo 1 = flag b ↔ bit w lo = b := by
  rw [bits_eq_iff_bit, Nat.forall_lt_succ_left, getLsbD_flag, Nat.add_zero]
  exact and_iff_left fun i hi => absurd hi i.not_lt_zero

/-! ## Layouts of fields -/

/-- A field: its width and what it holds. -/
abbrev WordField := (n : Nat) × BitVec n

/-- The word of adjoining fields, the lowest first, from bit `lo` up. -/
def packFields : Nat → List WordField → Word
  | _, [] => 0#32
  | lo, [f] => place f.2 lo
  | lo, f :: fs => packFields (lo + f.1) fs ||| place f.2 lo

/-- The bits that the fields fill. -/
def fieldsWidth : List WordField → Nat
  | [] => 0
  | f :: fs => f.1 + fieldsWidth fs

/-- The field of `w` at `lo` holds `x`, but for the bits of `k`. -/
def FieldAgrees (k w : Word) (lo : Nat) {n : Nat} (x : BitVec n) : Prop :=
  ∀ i, i < n → bit k (lo + i) = false → bit w (lo + i) = x.getLsbD i

/-- The adjoining fields of `w` from bit `lo` up hold those listed, but for the bits of `k`. -/
@[simp] def FieldsAgree (k w : Word) : Nat → List WordField → Prop
  | _, [] => True
  | lo, f :: fs => FieldAgrees k w lo f.2 ∧ FieldsAgree k w (lo + f.1) fs

/-- A field with no ignored bit. -/
@[simp] theorem fieldAgrees_iff {k : Word} {lo n : Nat} (hk : bits k lo n = 0#n) (w : Word) (x : BitVec n) :
    FieldAgrees k w lo x ↔ bits w lo n = x := by
  rw [bits_eq_iff_bit]
  refine forall₂_congr fun i hi => ⟨fun h => h ?_, fun h _ => h⟩
  rw [bits_eq_iff_bit.1 hk i hi, BitVec.getLsbD_zero]

/-- A field of ignored bits. -/
@[simp] theorem fieldAgrees_of_ignored {k : Word} {lo n : Nat} (hk : bits k lo n = BitVec.allOnes n) (w : Word)
    (x : BitVec n) : FieldAgrees k w lo x := by
  intro i hi h
  rw [bits_eq_iff_bit.1 hk i hi, BitVec.getLsbD_allOnes, decide_eq_true hi] at h
  cases h

theorem packFields_cons (lo : Nat) (f : WordField) (fs : List WordField) :
    packFields lo (f :: fs) = packFields (lo + f.1) fs ||| place f.2 lo := by
  cases fs with
  | nil => rw [packFields, packFields, BitVec.zero_or]
  | cons g gs => rw [packFields]; exact List.cons_ne_nil g gs

theorem bit_packFields_below (fs : List WordField) {lo i : Nat} (h : i < lo) : bit (packFields lo fs) i = false := by
  induction fs generalizing lo with
  | nil => exact BitVec.getLsbD_zero
  | cons f fs ih => rw [packFields_cons, bit_or, ih (by omega), bit_place_below _ _ _ h, Bool.or_false]

/-- From bit `lo` up, agreement with a layout is agreement with each of its fields. -/
theorem fieldsAgree_iff {k w : Word} {lo : Nat} {fs : List WordField} (h : lo + fieldsWidth fs = 32) :
    FieldsAgree k w lo fs ↔
      ∀ i, lo ≤ i → i < 32 → bit k i = false → bit w i = bit (packFields lo fs) i := by
  induction fs generalizing lo with
  | nil =>
    refine iff_of_true trivial fun i hi hi' => ?_
    rw [fieldsWidth] at h
    omega
  | cons f fs ih =>
    rw [fieldsWidth] at h
    have hlow : ∀ i, i < f.1 → bit (packFields lo (f :: fs)) (lo + i) = f.2.getLsbD i := fun i hi => by
      rw [packFields_cons, bit_or, bit_packFields_below fs (by omega),
        bit_place_inside _ _ _ (by omega) (by omega) (by omega), Nat.add_sub_cancel_left, Bool.false_or]
    have hhigh : ∀ i, lo + f.1 ≤ i → bit (packFields lo (f :: fs)) i = bit (packFields (lo + f.1) fs) i :=
      fun i hi => by rw [packFields_cons, bit_or, bit_place_above _ _ _ hi, Bool.or_false]
    rw [FieldsAgree, ih (by omega)]
    constructor
    · rintro ⟨hfield, hrest⟩ i hi hi' hk
      by_cases hin : i < lo + f.1
      · obtain ⟨j, rfl⟩ := Nat.exists_eq_add_of_le hi
        exact (hfield j (by omega) hk).trans (hlow j (by omega)).symm
      · exact (hrest i (by omega) hi' hk).trans (hhigh i (by omega)).symm
    · intro hall
      exact ⟨fun i hi hk => (hall _ (by omega) (by omega) hk).trans (hlow i hi),
        fun i hi hi' hk => (hall i (by omega) hi' hk).trans (hhigh i hi)⟩

/-- Agreement with a word that is a layout of 32 bits. -/
theorem agrees_iff_fieldsAgree {k w e : Word} {fs : List WordField} (he : e = packFields 0 fs)
    (h : fieldsWidth fs = 32) : Agrees k w e ↔ FieldsAgree k w 0 fs := by
  rw [he, agrees_iff, fieldsAgree_iff (by omega)]
  exact forall_congr' fun i => ⟨fun hi _ => hi, fun hi => hi i.zero_le⟩

/-! ## The layout of every format (R123–R136) -/

section Formats

variable {m w : Word} (c : Cond) (op : DpOp) (k : ShiftKind) (idx : Index) (md : BlockMode)
  (acc b l n p r s signed u wb : Bool) (sh op₂ : BitVec 2) (op2 op3 : BitVec 3)
  (cp low mask op1 rd rdHi rdLo rm rn rot rs : BitVec 4) (amt op₅ : BitVec 5) (imm : BitVec 8) (off mid : BitVec 12)
  (imm16 : BitVec 16) (hi rest : BitVec 20) (imm24 : BitVec 24) (rest28 : BitVec 28)

@[simp] theorem agrees_encDpImm :
    Agrees m w (encDpImm c op s rn rd rot imm) ↔ FieldsAgree m w 0
      [⟨_, imm⟩, ⟨_, rot⟩, ⟨_, rd⟩, ⟨_, rn⟩, ⟨_, flag s⟩, ⟨_, op.code⟩, ⟨_, 0b001#3⟩, ⟨_, c.code⟩] :=
  agrees_iff_fieldsAgree rfl rfl

@[simp] theorem agrees_encDpImmShift :
    Agrees m w (encDpImmShift c op s rn rd k amt rm) ↔ FieldsAgree m w 0
      [⟨_, rm⟩, ⟨_, 0b0#1⟩, ⟨_, k.code⟩, ⟨_, amt⟩, ⟨_, rd⟩, ⟨_, rn⟩, ⟨_, flag s⟩, ⟨_, op.code⟩, ⟨_, 0b000#3⟩,
       ⟨_, c.code⟩] :=
  agrees_iff_fieldsAgree rfl rfl

@[simp] theorem agrees_encDpRegShift :
    Agrees m w (encDpRegShift c op s rn rd k rs rm) ↔ FieldsAgree m w 0
      [⟨_, rm⟩, ⟨_, 0b1#1⟩, ⟨_, k.code⟩, ⟨_, 0b0#1⟩, ⟨_, rs⟩, ⟨_, rd⟩, ⟨_, rn⟩, ⟨_, flag s⟩, ⟨_, op.code⟩,
       ⟨_, 0b000#3⟩, ⟨_, c.code⟩] :=
  agrees_iff_fieldsAgree rfl rfl

@[simp] theorem agrees_encMul :
    Agrees m w (encMul c acc s rd rn rs rm) ↔ FieldsAgree m w 0
      [⟨_, rm⟩, ⟨_, 0b1001#4⟩, ⟨_, rs⟩, ⟨_, rn⟩, ⟨_, rd⟩, ⟨_, flag s⟩, ⟨_, flag acc⟩, ⟨_, 0b000000#6⟩, ⟨_, c.code⟩] :=
  agrees_iff_fieldsAgree rfl rfl

@[simp] theorem agrees_encMulLong :
    Agrees m w (encMulLong c signed acc s rdHi rdLo rs rm) ↔ FieldsAgree m w 0
      [⟨_, rm⟩, ⟨_, 0b1001#4⟩, ⟨_, rs⟩, ⟨_, rdLo⟩, ⟨_, rdHi⟩, ⟨_, flag s⟩, ⟨_, flag acc⟩, ⟨_, flag signed⟩,
       ⟨_, 0b00001#5⟩, ⟨_, c.code⟩] :=
  agrees_iff_fieldsAgree rfl rfl

@[simp] theorem agrees_encSwp :
    Agrees m w (encSwp c b rn rd rm) ↔ FieldsAgree m w 0
      [⟨_, rm⟩, ⟨_, 0b1001#4⟩, ⟨_, 0b0000#4⟩, ⟨_, rd⟩, ⟨_, rn⟩, ⟨_, 0b00#2⟩, ⟨_, flag b⟩, ⟨_, 0b00010#5⟩,
       ⟨_, c.code⟩] :=
  agrees_iff_fieldsAgree rfl rfl

@[simp] theorem agrees_encExtraImm :
    Agrees m w (encExtraImm c l sh idx u rn rd imm) ↔ FieldsAgree m w 0
      [⟨_, imm.extractLsb' 0 4⟩, ⟨_, 0b1#1⟩, ⟨_, sh⟩, ⟨_, 0b1#1⟩, ⟨_, imm.extractLsb' 4 4⟩, ⟨_, rd⟩, ⟨_, rn⟩,
       ⟨_, flag l⟩, ⟨_, flag idx.w⟩, ⟨_, 0b1#1⟩, ⟨_, flag u⟩, ⟨_, flag idx.p⟩, ⟨_, 0b000#3⟩, ⟨_, c.code⟩] :=
  agrees_iff_fieldsAgree rfl rfl

@[simp] theorem agrees_encExtraReg :
    Agrees m w (encExtraReg c l sh idx u rn rd rm) ↔ FieldsAgree m w 0
      [⟨_, rm⟩, ⟨_, 0b1#1⟩, ⟨_, sh⟩, ⟨_, 0b1#1⟩, ⟨_, 0b0000#4⟩, ⟨_, rd⟩, ⟨_, rn⟩, ⟨_, flag l⟩, ⟨_, flag idx.w⟩,
       ⟨_, 0b0#1⟩, ⟨_, flag u⟩, ⟨_, flag idx.p⟩, ⟨_, 0b000#3⟩, ⟨_, c.code⟩] :=
  agrees_iff_fieldsAgree rfl rfl

@[simp] theorem agrees_encMsrReg :
    Agrees m w (encMsrReg c r mask rm) ↔ FieldsAgree m w 0
      [⟨_, rm⟩, ⟨_, 0b0000#4⟩, ⟨_, 0b0000#4⟩, ⟨_, 0b1111#4⟩, ⟨_, mask⟩, ⟨_, 0b10#2⟩, ⟨_, flag r⟩, ⟨_, 0b00010#5⟩,
       ⟨_, c.code⟩] :=
  agrees_iff_fieldsAgree rfl rfl

@[simp] theorem agrees_encMsrImm :
    Agrees m w (encMsrImm c r mask rot imm) ↔ FieldsAgree m w 0
      [⟨_, imm⟩, ⟨_, rot⟩, ⟨_, 0b1111#4⟩, ⟨_, mask⟩, ⟨_, 0b10#2⟩, ⟨_, flag r⟩, ⟨_, 0b00110#5⟩, ⟨_, c.code⟩] :=
  agrees_iff_fieldsAgree rfl rfl

@[simp] theorem agrees_encBx :
    Agrees m w (encBx c mask rm) ↔ FieldsAgree m w 0
      [⟨_, rm⟩, ⟨_, mask⟩, ⟨_, 0xFFF#12⟩, ⟨_, 0b00010010#8⟩, ⟨_, c.code⟩] :=
  agrees_iff_fieldsAgree rfl rfl

@[simp] theorem agrees_encClz :
    Agrees m w (encClz c rd rm) ↔ FieldsAgree m w 0
      [⟨_, rm⟩, ⟨_, 0b0001#4⟩, ⟨_, 0xF#4⟩, ⟨_, rd⟩, ⟨_, 0xF#4⟩, ⟨_, 0b00010110#8⟩, ⟨_, c.code⟩] :=
  agrees_iff_fieldsAgree rfl rfl

@[simp] theorem agrees_encBkpt :
    Agrees m w (encBkpt c imm16) ↔ FieldsAgree m w 0
      [⟨_, imm16.extractLsb' 0 4⟩, ⟨_, 0b0111#4⟩, ⟨_, imm16.extractLsb' 4 12⟩, ⟨_, 0b00010010#8⟩, ⟨_, c.code⟩] :=
  agrees_iff_fieldsAgree rfl rfl

@[simp] theorem agrees_encLsImm :
    Agrees m w (encLsImm c b l idx u rn rd off) ↔ FieldsAgree m w 0
      [⟨_, off⟩, ⟨_, rd⟩, ⟨_, rn⟩, ⟨_, flag l⟩, ⟨_, flag idx.w⟩, ⟨_, flag b⟩, ⟨_, flag u⟩, ⟨_, flag idx.p⟩,
       ⟨_, 0b010#3⟩, ⟨_, c.code⟩] :=
  agrees_iff_fieldsAgree rfl rfl

@[simp] theorem agrees_encLsReg :
    Agrees m w (encLsReg c b l idx u rn rd k amt rm) ↔ FieldsAgree m w 0
      [⟨_, rm⟩, ⟨_, 0b0#1⟩, ⟨_, k.code⟩, ⟨_, amt⟩, ⟨_, rd⟩, ⟨_, rn⟩, ⟨_, flag l⟩, ⟨_, flag idx.w⟩, ⟨_, flag b⟩,
       ⟨_, flag u⟩, ⟨_, flag idx.p⟩, ⟨_, 0b011#3⟩, ⟨_, c.code⟩] :=
  agrees_iff_fieldsAgree rfl rfl

@[simp] theorem agrees_encBlock :
    Agrees m w (encBlock c s l md wb rn imm16) ↔ FieldsAgree m w 0
      [⟨_, imm16⟩, ⟨_, rn⟩, ⟨_, flag l⟩, ⟨_, flag wb⟩, ⟨_, flag s⟩, ⟨_, flag md.u⟩, ⟨_, flag md.p⟩, ⟨_, 0b100#3⟩,
       ⟨_, c.code⟩] :=
  agrees_iff_fieldsAgree rfl rfl

@[simp] theorem agrees_encBranch :
    Agrees m w (encBranch c l imm24) ↔ FieldsAgree m w 0 [⟨_, imm24⟩, ⟨_, flag l⟩, ⟨_, 0b101#3⟩, ⟨_, c.code⟩] :=
  agrees_iff_fieldsAgree rfl rfl

@[simp] theorem agrees_encCpLs :
    Agrees m w (encCpLs c p u n wb l rn rd cp imm) ↔ FieldsAgree m w 0
      [⟨_, imm⟩, ⟨_, cp⟩, ⟨_, rd⟩, ⟨_, rn⟩, ⟨_, flag l⟩, ⟨_, flag wb⟩, ⟨_, flag n⟩, ⟨_, flag u⟩, ⟨_, flag p⟩,
       ⟨_, 0b110#3⟩, ⟨_, c.code⟩] :=
  agrees_iff_fieldsAgree rfl rfl

@[simp] theorem agrees_encCdp :
    Agrees m w (encCdp c op1 rn rd cp op2 rm) ↔ FieldsAgree m w 0
      [⟨_, rm⟩, ⟨_, 0b0#1⟩, ⟨_, op2⟩, ⟨_, cp⟩, ⟨_, rd⟩, ⟨_, rn⟩, ⟨_, op1⟩, ⟨_, 0b1110#4⟩, ⟨_, c.code⟩] :=
  agrees_iff_fieldsAgree rfl rfl

@[simp] theorem agrees_encCpRt :
    Agrees m w (encCpRt c l op3 rn rd cp op2 rm) ↔ FieldsAgree m w 0
      [⟨_, rm⟩, ⟨_, 0b1#1⟩, ⟨_, op2⟩, ⟨_, cp⟩, ⟨_, rd⟩, ⟨_, rn⟩, ⟨_, flag l⟩, ⟨_, op3⟩, ⟨_, 0b1110#4⟩, ⟨_, c.code⟩] :=
  agrees_iff_fieldsAgree rfl rfl

@[simp] theorem agrees_encSwi :
    Agrees m w (encSwi c imm24) ↔ FieldsAgree m w 0 [⟨_, imm24⟩, ⟨_, 0b1111#4⟩, ⟨_, c.code⟩] :=
  agrees_iff_fieldsAgree rfl rfl

/-- w[7:4] of MRS stands apart from the rest of w[11:0], since the decode tree tests it (R122, R139). -/
@[simp] theorem agrees_encMrs :
    Agrees m w (encMrs c r rd) ↔ FieldsAgree m w 0
      [⟨_, 0b0000#4⟩, ⟨_, 0b0000#4⟩, ⟨_, 0b0000#4⟩, ⟨_, rd⟩, ⟨_, 0b1111#4⟩, ⟨_, 0b00#2⟩, ⟨_, flag r⟩,
       ⟨_, 0b00010#5⟩, ⟨_, c.code⟩] :=
  agrees_iff_fieldsAgree (by simp [encMrs, packFields, place]) rfl

@[simp] theorem agrees_blxImm :
    Agrees m w (place 0b1111101#7 25 ||| place (flag b) 24 ||| place imm24 0) ↔
      FieldsAgree m w 0 [⟨_, imm24⟩, ⟨_, flag b⟩, ⟨_, 0b1111101#7⟩] :=
  agrees_iff_fieldsAgree rfl rfl

@[simp] theorem agrees_undefCond1111 :
    Agrees m w (place 0b1111#4 28 ||| place rest28 0) ↔
      FieldsAgree m w 0 [⟨_, rest28⟩, ⟨_, 0b1111#4⟩] :=
  agrees_iff_fieldsAgree rfl rfl

@[simp] theorem agrees_undefMulswp :
    Agrees m w (place c.code 28 ||| place 0b000#3 25 ||| place op₅ 20 ||| place mid 8 ||| place 0b1001#4 4 |||
      place low 0) ↔ FieldsAgree m w 0 [⟨_, low⟩, ⟨_, 0b1001#4⟩, ⟨_, mid⟩, ⟨_, op₅⟩, ⟨_, 0b000#3⟩, ⟨_, c.code⟩] :=
  agrees_iff_fieldsAgree rfl rfl

@[simp] theorem agrees_undefMisc :
    Agrees m w (place c.code 28 ||| place 0b00010#5 23 ||| place op₂ 21 ||| place 0b0#1 20 ||| place rest 0) ↔
      FieldsAgree m w 0 [⟨_, rest⟩, ⟨_, 0b0#1⟩, ⟨_, op₂⟩, ⟨_, 0b00010#5⟩, ⟨_, c.code⟩] :=
  agrees_iff_fieldsAgree rfl rfl

@[simp] theorem agrees_undefClass1Move :
    Agrees m w (place c.code 28 ||| place 0b00110#5 23 ||| place (flag b) 22 ||| place 0b00#2 20 ||| place rest 0) ↔
      FieldsAgree m w 0 [⟨_, rest⟩, ⟨_, 0b00#2⟩, ⟨_, flag b⟩, ⟨_, 0b00110#5⟩, ⟨_, c.code⟩] :=
  agrees_iff_fieldsAgree rfl rfl

@[simp] theorem agrees_undefClass3 :
    Agrees m w (place c.code 28 ||| place 0b011#3 25 ||| place hi 5 ||| place 0b1#1 4 ||| place low 0) ↔
      FieldsAgree m w 0 [⟨_, low⟩, ⟨_, 0b1#1⟩, ⟨_, hi⟩, ⟨_, 0b011#3⟩, ⟨_, c.code⟩] :=
  agrees_iff_fieldsAgree rfl rfl

end Formats

end Sys2Proof
end

section
/-! SUPPORT. A word decodes to an instruction exactly where it is a word of that instruction, ignored bits apart
(`decodeWord_eq_iff`); then the proofs of O1 to O4. -/

namespace Sys2Proof.Machine

/-! ## The codes of the enumerated fields, read back -/

theorem DpOp.ofCode_eq_iff {b : BitVec 4} {o : DpOp} : DpOp.ofCode b = o ↔ b = o.code := by
  revert b
  cases o <;> decide

theorem Cond.ofCode_eq_none {b : BitVec 4} (h : Cond.ofCode b = none) : b = 0b1111#4 := by
  revert b
  decide

@[simp] theorem ShiftKind.code_ofCode (b : BitVec 2) : (ShiftKind.ofCode b).code = b := by
  revert b
  decide

@[simp] theorem Index.p_ofPW (p w : Bool) : (Index.ofPW p w).p = p := by cases p <;> cases w <;> rfl

@[simp] theorem Index.w_ofPW (p w : Bool) : (Index.ofPW p w).w = w := by cases p <;> cases w <;> rfl

theorem Index.ofPW_eq_postW (p w : Bool) : Index.ofPW p w = .postW ↔ p = false ∧ w = true := by
  cases p <;> cases w <;> decide

@[simp] theorem Index.p_postW : Index.postW.p = false := rfl

@[simp] theorem Index.w_postW : Index.postW.w = true := rfl

@[simp] theorem BlockMode.p_ofPU (p u : Bool) : (BlockMode.ofPU p u).p = p := by cases p <;> cases u <;> rfl

@[simp] theorem BlockMode.u_ofPU (p u : Bool) : (BlockMode.ofPU p u).u = u := by cases p <;> cases u <;> rfl

/-! ## Two fields put together, taken apart again -/

@[simp] theorem extractLsb'_append_8 (x y : BitVec 4) :
    (x ++ y : BitVec 8).extractLsb' 0 4 = y ∧ (x ++ y : BitVec 8).extractLsb' 4 4 = x := by
  rw [BitVec.extractLsb'_append_eq_of_add_le (by decide), BitVec.extractLsb'_append_eq_of_le (by decide)]
  exact ⟨extractLsb'_whole y, extractLsb'_whole x⟩

@[simp] theorem extractLsb'_append_16 (x : BitVec 12) (y : BitVec 4) :
    (x ++ y : BitVec 16).extractLsb' 0 4 = y ∧ (x ++ y : BitVec 16).extractLsb' 4 12 = x := by
  rw [BitVec.extractLsb'_append_eq_of_add_le (by decide), BitVec.extractLsb'_append_eq_of_le (by decide)]
  exact ⟨extractLsb'_whole y, extractLsb'_whole x⟩

/-- `w` is a word of the well-formed instruction `i`: it is that of `encode`, but for SBZ and SBO bits (R139). -/
def Encodes (w : Word) (i : Instr) : Prop := i.wf = true ∧ Agrees (sbzMask i) w (encode i)

variable {w : Word} {c : Cond}

/-! ## Every word encodes what it decodes to

The proofs follow the tree of R122. At each leaf the literal fields of the row are the tests on the path to it, compared
bit by bit (`bits_succ_eq_literal`), and the operands are read from the word itself. -/

/-- The opcodes of the comparisons are those of the miscellaneous space, which takes them where S = 0 (R122, R124). -/
theorem dpCompares_ofCode_iff (w : Word) :
    dpCompares (DpOp.ofCode (bits w 21 4)) = true ↔ bits w 23 2 = 0b10#2 := by
  have hhigh : bits w 23 2 = (bits w 21 4).extractLsb' 2 2 := by rw [extractLsb'_bits w (by decide)]
  rw [hhigh]
  generalize bits w 21 4 = x
  revert x
  decide

/-- A comparison outside the miscellaneous space has S = 1. -/
theorem bit20_of_compare {op : DpOp} (hmisc : ¬(bits w 23 2 = 0b10#2 ∧ ¬bit w 20)) (hop : bits w 21 4 = op.code)
    (hcmp : dpCompares op = true) : bit w 20 = true := by
  rw [← DpOp.ofCode_eq_iff.2 hop, dpCompares_ofCode_iff] at hcmp
  by_contra hs
  exact hmisc ⟨hcmp, hs⟩

theorem encodes_decodeDpImm (hc : bits w 28 4 = c.code) (hclass : bits w 25 3 = 0b001#3)
    (hmisc : ¬(bits w 23 2 = 0b10#2 ∧ ¬bit w 20)) : Encodes w (decodeDpImm c w) := by
  unfold decodeDpImm
  split <;> rename_i hop <;> rw [DpOp.ofCode_eq_iff] at hop
  all_goals simp (disch := decide) [Encodes, Instr.wf, sbzMask, encode, hc, hclass, hop]
  all_goals exact bit20_of_compare hmisc hop rfl

theorem encodes_decodeDpImmShift (hc : bits w 28 4 = c.code) (hclass : bits w 25 3 = 0b000#3)
    (hmisc : ¬(bits w 23 2 = 0b10#2 ∧ ¬bit w 20)) (h4 : bits w 4 1 = 0b0#1) : Encodes w (decodeDpImmShift c w) := by
  unfold decodeDpImmShift
  split <;> rename_i hop <;> rw [DpOp.ofCode_eq_iff] at hop
  all_goals simp (disch := decide) [Encodes, Instr.wf, sbzMask, encode, hc, hclass, hop, h4]
  all_goals exact bit20_of_compare hmisc hop rfl

theorem encodes_decodeDpRegShift (hc : bits w 28 4 = c.code) (hclass : bits w 25 3 = 0b000#3)
    (hmisc : ¬(bits w 23 2 = 0b10#2 ∧ ¬bit w 20)) (h4 : bits w 4 1 = 0b1#1) (h7 : bits w 7 1 = 0b0#1) :
    Encodes w (decodeDpRegShift c w) := by
  unfold decodeDpRegShift
  split <;> rename_i hop <;> rw [DpOp.ofCode_eq_iff] at hop
  all_goals simp (disch := decide) [Encodes, Instr.wf, sbzMask, encode, hc, hclass, hop, h4, h7]
  all_goals exact bit20_of_compare hmisc hop rfl

theorem encodes_decodeMulSwap (hc : bits w 28 4 = c.code) (hclass : bits w 25 3 = 0b000#3)
    (h4 : bits w 4 4 = 0b1001#4) : Encodes w (decodeMulSwap c w) := by
  simp [bits_succ_eq_literal] at hclass h4
  simp [decodeMulSwap, bits_succ_eq_literal, hclass]
  split_ifs
  -- The undefined row is left where every test of the space fails, as its `wf` asks.
  case neg =>
    simp (disch := decide) [Encodes, Instr.wf, isMulSwpOp, sbzMask, encode, bits_succ_eq_literal, getElem_bits,
      extractLsb'_bits, hc, hclass, h4]
    grind
  all_goals simp (disch := decide) [Encodes, Instr.wf, sbzMask, encode, bits_succ_eq_literal, *]

theorem encodes_decodeExtra (hc : bits w 28 4 = c.code) (hclass : bits w 25 3 = 0b000#3) (h4 : bit w 4) (h7 : bit w 7)
    (h5 : bits w 5 2 ≠ 0b00#2) : Encodes w (decodeExtra c w) := by
  simp [bits_succ_eq_literal] at hclass h5
  simp [decodeExtra, bits_succ_eq_literal]
  split_ifs
  all_goals simp (disch := decide) [Encodes, Instr.wf, sbzMask, encode, bits_succ_eq_literal, *]
  -- Left are the rows of SH = 11, the only value that no test names.
  all_goals grind

theorem encodes_decodeMisc (hc : bits w 28 4 = c.code) (hclass : bits w 25 3 = 0b000#3)
    (h74 : ¬(bit w 7 ∧ bit w 4)) (hmisc : bits w 23 2 = 0b10#2 ∧ ¬bit w 20) : Encodes w (decodeMisc c w) := by
  simp [bits_succ_eq_literal] at hclass hmisc
  simp [decodeMisc, bits_succ_eq_literal]
  split_ifs
  all_goals simp (disch := decide) [Encodes, Instr.wf, isMiscOp, sbzMask, encode, bits_succ_eq_literal, getElem_bits,
    extractLsb'_bits, *]
  -- Left is the undefined row, where every test of the space fails, as its `wf` asks.
  all_goals grind

theorem encodes_decodeClass0 (hc : bits w 28 4 = c.code) (hclass : bits w 25 3 = 0b000#3) :
    Encodes w (decodeClass0 c w) := by
  unfold decodeClass0
  split_ifs with h74 h5 hmisc h4
  · refine encodes_decodeMulSwap hc hclass ?_
    simpa [bits_succ_eq_literal, h74] using h5
  · exact encodes_decodeExtra hc hclass h74.2 h74.1 h5
  · exact encodes_decodeMisc hc hclass h74 hmisc
  · refine encodes_decodeDpRegShift hc hclass hmisc ?_ ?_
    · simpa [bits_succ_eq_literal] using h4
    · simpa [bits_succ_eq_literal, h4] using h74
  · refine encodes_decodeDpImmShift hc hclass hmisc ?_
    simpa [bits_succ_eq_literal] using h4

theorem encodes_decodeClass1 (hc : bits w 28 4 = c.code) (hclass : bits w 25 3 = 0b001#3) :
    Encodes w (decodeClass1 c w) := by
  by_cases hmisc : bits w 23 2 = 0b10#2 ∧ ¬bit w 20
  · rw [decodeClass1, if_pos hmisc]
    simp [bits_succ_eq_literal] at hclass hmisc
    split_ifs <;> simp (disch := decide) [Encodes, Instr.wf, sbzMask, encode, bits_succ_eq_literal, *]
  · rw [decodeClass1, if_neg hmisc]
    exact encodes_decodeDpImm hc hclass hmisc

theorem encodes_decodeClass2 (hc : bits w 28 4 = c.code) (hclass : bits w 25 3 = 0b010#3) :
    Encodes w (decodeClass2 c w) := by
  simp only [decodeClass2, Index.ofPW_eq_postW]
  split_ifs <;> simp (disch := decide) [Encodes, Instr.wf, sbzMask, encode, Index.ofPW_eq_postW, *]

theorem encodes_decodeClass3 (hc : bits w 28 4 = c.code) (hclass : bits w 25 3 = 0b011#3) :
    Encodes w (decodeClass3 c w) := by
  simp [bits_succ_eq_literal] at hclass
  simp only [decodeClass3, Index.ofPW_eq_postW]
  split_ifs <;>
    simp (disch := decide) [Encodes, Instr.wf, sbzMask, encode, bits_succ_eq_literal, Index.ofPW_eq_postW, *]

theorem encodes_decodeClass4 (hc : bits w 28 4 = c.code) (hclass : bits w 25 3 = 0b100#3) :
    Encodes w (decodeClass4 c w) := by
  simp only [decodeClass4]
  split_ifs <;> simp (disch := decide) [Encodes, Instr.wf, sbzMask, encode, getElem_bits, *]

theorem encodes_decodeClass5 (hc : bits w 28 4 = c.code) (hclass : bits w 25 3 = 0b101#3) :
    Encodes w (decodeClass5 c w) := by
  unfold decodeClass5
  split_ifs <;> simp (disch := decide) [Encodes, Instr.wf, sbzMask, encode, *]

theorem encodes_decodeClass6 (hc : bits w 28 4 = c.code) (hclass : bits w 25 3 = 0b110#3) :
    Encodes w (decodeClass6 c w) := by
  unfold decodeClass6
  split_ifs <;> simp (disch := decide) [Encodes, Instr.wf, sbzMask, encode, *]

theorem encodes_decodeClass7 (hc : bits w 28 4 = c.code) (hclass : bits w 25 3 = 0b111#3) :
    Encodes w (decodeClass7 c w) := by
  simp [bits_succ_eq_literal] at hclass
  unfold decodeClass7
  split_ifs <;> simp (disch := decide) [Encodes, Instr.wf, sbzMask, encode, bits_succ_eq_literal, *]

theorem encodes_decodeClass (hc : bits w 28 4 = c.code) : Encodes w (decodeClass c w) := by
  unfold decodeClass
  split_ifs with h0 h1 h2 h3 h4 h5 h6
  · exact encodes_decodeClass0 hc h0
  · exact encodes_decodeClass1 hc h1
  · exact encodes_decodeClass2 hc h2
  · exact encodes_decodeClass3 hc h3
  · exact encodes_decodeClass4 hc h4
  · exact encodes_decodeClass5 hc h5
  · exact encodes_decodeClass6 hc h6
  · refine encodes_decodeClass7 hc ?_
    bv_omega

theorem encodes_decodeWord (w : Word) : Encodes w (decodeWord w) := by
  unfold decodeWord
  split
  next c hc => exact encodes_decodeClass (Cond.code_ofCode _ c hc).symm
  next hc =>
    have h28 := Cond.ofCode_eq_none hc
    split_ifs with h25
    · simp [bits_succ_eq_literal] at h25 h28
      simp (disch := decide) [Encodes, Instr.wf, sbzMask, encode, bits_succ_eq_literal, h25, h28]
    · simp (disch := decide) [Encodes, Instr.wf, sbzMask, encode, extractLsb'_bits, h25, h28]

/-! ## Every word of an instruction decodes to it -/

theorem decodeClass1_of_dp (hs : dpCompares (DpOp.ofCode (bits w 21 4)) = true → bit w 20 = true) :
    decodeClass1 c w = decodeDpImm c w := by
  rw [decodeClass1, if_neg fun h => h.2 (hs ((dpCompares_ofCode_iff w).2 h.1))]

theorem decodeClass0_of_dp (h74 : ¬(bit w 7 ∧ bit w 4))
    (hs : dpCompares (DpOp.ofCode (bits w 21 4)) = true → bit w 20 = true) :
    decodeClass0 c w = if bit w 4 then decodeDpRegShift c w else decodeDpImmShift c w := by
  rw [decodeClass0, if_neg h74, if_neg fun h => h.2 (hs ((dpCompares_ofCode_iff w).2 h.1))]

section Families

variable {i : Instr} (h : Encodes w i)
include h

theorem decodeWord_of_encodes_dp {v : DpView} (hv : dpView i = some v) : decodeWord w = i := by
  obtain ⟨-, hfields⟩ := h
  cases i <;> simp only [dpView, reduceCtorEq] at hv
  all_goals
    simp (disch := decide) [encode, sbzMask, bits_succ_eq_literal] at hfields
    simp [decodeWord, decodeClass, decodeClass0_of_dp, decodeClass1_of_dp, decodeDpImm, decodeDpImmShift,
      decodeDpRegShift, dpCompares, bits_succ_eq_literal, hfields]

theorem decodeWord_of_encodes_ls {v : LsView} (hv : lsView i = some v) : decodeWord w = i := by
  obtain ⟨hwf, hfields⟩ := h
  cases i <;> simp only [lsView, reduceCtorEq] at hv
  all_goals
    simp (disch := decide) [encode, sbzMask, bits_succ_eq_literal] at hfields
    simp only [Instr.wf, bne_iff_ne] at hwf
    simp [decodeWord, decodeClass, decodeClass2, decodeClass3, Index.ofPW_eq_postW, bits_succ_eq_literal, hfields, hwf]

theorem decodeWord_of_encodes_misc {v : MiscView} (hv : miscView i = some v) : decodeWord w = i := by
  obtain ⟨-, hfields⟩ := h
  cases i <;> simp only [miscView, reduceCtorEq] at hv
  all_goals
    simp (disch := decide) [encode, sbzMask, bits_succ_eq_literal] at hfields
    simp [decodeWord, decodeClass, decodeClass0, decodeExtra, bits_succ_eq_literal, hfields]

/-- LDM(2) and LDM(3) are told apart by R15 in the list (R312). -/
theorem decodeWord_of_encodes_block {v : BlockView} (hv : blockView i = some v) : decodeWord w = i := by
  obtain ⟨hwf, hfields⟩ := h
  cases i <;> simp only [blockView, reduceCtorEq] at hv
  all_goals
    simp (disch := decide) [encode, sbzMask, bits_succ_eq_literal] at hfields
    obtain ⟨rfl, hfields⟩ := hfields
    simp (disch := decide) only [Instr.wf, getLsbD_bits, Nat.zero_add] at hwf
    simp_all [decodeWord, decodeClass, decodeClass4, bits_succ_eq_literal]

end Families

/-! In the three undefined spaces the row's `wf` denies the tests of the rows that the tree tries first (R122, R138). -/

theorem decodeWord_of_encodes_undefMulswp {op : BitVec 5} {mid : BitVec 12} {low : BitVec 4}
    (h : Encodes w (.undefMulswp c op mid low)) : decodeWord w = .undefMulswp c op mid low := by
  obtain ⟨hwf, hfields⟩ := h
  simp (disch := decide) [encode, sbzMask, bits_succ_eq_literal] at hfields
  obtain ⟨rfl, h4, rfl, rfl, hclass, hc⟩ := hfields
  simp (disch := decide) [Instr.wf, isMulSwpOp, bits_succ_eq_literal, getElem_bits, extractLsb'_bits] at hwf
  simp [decodeWord, decodeClass, decodeClass0, decodeMulSwap, bits_succ_eq_literal, h4, hclass, hc]
  grind

theorem decodeWord_of_encodes_undefMisc {op : BitVec 2} {rest : BitVec 20} (h : Encodes w (.undefMisc c op rest)) :
    decodeWord w = .undefMisc c op rest := by
  obtain ⟨hwf, hfields⟩ := h
  simp (disch := decide) [encode, sbzMask, bits_succ_eq_literal] at hfields
  obtain ⟨rfl, h20, rfl, hclass, hc⟩ := hfields
  simp (disch := decide) [Instr.wf, isMiscOp, bits_succ_eq_literal, getElem_bits, extractLsb'_bits] at hwf
  simp [decodeWord, decodeClass, decodeClass0, decodeMisc, bits_succ_eq_literal, h20, hclass, hc]
  grind

theorem decodeWord_of_encodes_undefCond1111 {rest : BitVec 28} (h : Encodes w (.undefCond1111 rest)) :
    decodeWord w = .undefCond1111 rest := by
  obtain ⟨hwf, hfields⟩ := h
  simp (disch := decide) [encode, sbzMask] at hfields
  obtain ⟨rfl, hc⟩ := hfields
  simp (disch := decide) [Instr.wf, extractLsb'_bits] at hwf
  simp [decodeWord, Cond.ofCode, hc, hwf]

theorem decodeWord_of_encodes_blxImm {b : Bool} {imm : BitVec 24} (h : Encodes w (.blxImm b imm)) :
    decodeWord w = .blxImm b imm := by
  obtain ⟨-, hfields⟩ := h
  simp (disch := decide) [encode, sbzMask, bits_succ_eq_literal] at hfields
  have hc : bits w 28 4 = 0b1111#4 := by simp [bits_succ_eq_literal, hfields]
  simp [decodeWord, Cond.ofCode, hc, bits_succ_eq_literal, hfields]

theorem decodeWord_of_encodes {i : Instr} (h : Encodes w i) : decodeWord w = i := by
  cases i
  case andImmShift | andRegShift | eorImmShift | eorRegShift | subImmShift | subRegShift | rsbImmShift | rsbRegShift |
    addImmShift | addRegShift | adcImmShift | adcRegShift | sbcImmShift | sbcRegShift | rscImmShift | rscRegShift |
    tstImmShift | tstRegShift | teqImmShift | teqRegShift | cmpImmShift | cmpRegShift | cmnImmShift | cmnRegShift |
    orrImmShift | orrRegShift | movImmShift | movRegShift | bicImmShift | bicRegShift | mvnImmShift | mvnRegShift |
    andImm | eorImm | subImm | rsbImm | addImm | adcImm | sbcImm | rscImm | tstImm | teqImm | cmpImm | cmnImm | orrImm |
    movImm | bicImm | mvnImm =>
    exact decodeWord_of_encodes_dp h rfl
  case ldrtImm | ldrbtImm | strtImm | strbtImm | ldrImm | ldrbImm | strImm | strbImm | ldrtReg | ldrbtReg | strtReg |
    strbtReg | ldrReg | ldrbReg | strReg | strbReg =>
    exact decodeWord_of_encodes_ls h rfl
  case ldrhImm | ldrhReg | strhImm | strhReg | ldrsbImm | ldrsbReg | ldrshImm | ldrshReg | ldrdImm | ldrdReg | strdImm |
    strdReg =>
    exact decodeWord_of_encodes_misc h rfl
  case ldm1 | ldm2 | ldm3 | stm1 | stm2 => exact decodeWord_of_encodes_block h rfl
  case undefMulswp => exact decodeWord_of_encodes_undefMulswp h
  case undefMisc => exact decodeWord_of_encodes_undefMisc h
  case undefCond1111 => exact decodeWord_of_encodes_undefCond1111 h
  case blxImm => exact decodeWord_of_encodes_blxImm h
  all_goals
    obtain ⟨hwf, hfields⟩ := h
    simp (disch := decide) [encode, sbzMask, bits_succ_eq_literal] at hfields
  case mul | mla | umull | umlal | smull | smlal | swp | swpb =>
    simp [decodeWord, decodeClass, decodeClass0, decodeMulSwap, bits_succ_eq_literal, hfields]
  case mrsCpsr | mrsSpsr | msrCpsrReg | msrSpsrReg | bx | blxReg | clz | bkpt =>
    simp [decodeWord, decodeClass, decodeClass0, decodeMisc, bits_succ_eq_literal, hfields]
  case msrCpsrImm | msrSpsrImm | undefClass1Move =>
    simp [decodeWord, decodeClass, decodeClass1, bits_succ_eq_literal, hfields]
  case undefClass3 => simp [decodeWord, decodeClass, decodeClass3, bits_succ_eq_literal, hfields]
  case b | bl => simp [decodeWord, decodeClass, decodeClass5, bits_succ_eq_literal, hfields]
  case ldc | stc => simp [decodeWord, decodeClass, decodeClass6, bits_succ_eq_literal, hfields]
  case swi =>
    simp only [Instr.wf, bne_iff_ne] at hwf
    simp [decodeWord, decodeClass, decodeClass7, bits_succ_eq_literal, hfields, hwf]
  case swiHalt | cdp | mrc | mcr => simp [decodeWord, decodeClass, decodeClass7, bits_succ_eq_literal, hfields]

/-- The decoder and the encoder are inverse up to SBZ and SBO bits. -/
theorem decodeWord_eq_iff {i : Instr} : decodeWord w = i ↔ Encodes w i := by
  refine ⟨?_, decodeWord_of_encodes⟩
  rintro rfl
  exact encodes_decodeWord w

/-! ## The bytes of a word -/

theorem decode_append_of_length {bs : List Byte} (h : bs.length = 4) (bigEndian : Bool) (rest : List Byte) :
    decode bigEndian (bs ++ rest) = .ok (decodeWord (assemble bigEndian bs), rest) := by
  match bs, h with
  | [_, _, _, _], _ => rfl

/-- The four bytes of a word decode to what the word decodes to, whatever follows them (R94, R120). -/
theorem decode_disassemble (bigEndian : Bool) (w : Word) (rest : List Byte) :
    decode bigEndian (disassemble bigEndian 4 w ++ rest) = .ok (decodeWord w, rest) := by
  have hword : assemble bigEndian (disassemble bigEndian 4 w) = w := assemble_disassemble bigEndian .word w
  rw [decode_append_of_length (length_disassemble ..), hword]

/-! ## The four statements -/

/-- Settles O1: the word of `encode` is a word of the instruction, and its bytes are put together to it again. -/
theorem decodeOfEncode : Obligations.DecodeOfEncode := by
  unfold Obligations.DecodeOfEncode
  intro i hwf
  have hword : decodeWord (encode i) = i := decodeWord_of_encodes ⟨hwf, Agrees.refl ..⟩
  refine ⟨hword, fun bigEndian rest => ?_⟩
  rw [decode_disassemble, hword]

/-- Settles O2: a word is a word of what it decodes to, which is well-formed. -/
theorem decodedInstructionIsWellFormed : Obligations.DecodedInstructionIsWellFormed := by
  unfold Obligations.DecodedInstructionIsWellFormed
  exact fun w => (encodes_decodeWord w).1

/-- Settles O3: a word changed in SBZ and SBO bits is a word of the same instruction still. -/
theorem onlySbzSboBitsAreIgnored : Obligations.OnlySbzSboBitsAreIgnored := by
  unfold Obligations.OnlySbzSboBitsAreIgnored
  refine ⟨fun w m hm => ?_, fun w => (encodes_decodeWord w).2.symm⟩
  obtain ⟨hwf, hagrees⟩ := encodes_decodeWord w
  have hchanged : Agrees (sbzMask (decodeWord w)) (w ^^^ m) w := by
    rw [Agrees, BitVec.xor_comm w m, BitVec.xor_assoc, BitVec.xor_self, BitVec.xor_zero, hm]
  exact decodeWord_of_encodes ⟨hwf, hchanged.trans hagrees⟩

/-- Settles O4: the tree, run on each of the eleven words. -/
theorem specWordsDecode : Obligations.SpecWordsDecode := by
  unfold Obligations.SpecWordsDecode
  decide

end Sys2Proof.Machine
end

section
/-! SUPPORT. An instruction stops the machine only by the policy of R380; then the proof of O15. -/

namespace Sys2Proof.Machine

/-- An instruction stops the machine only where UNROUTED_POLICY is Refuse (R380). -/
theorem goesOn_exec {i : Instr} {s : State} (h : s.params.unrouted ≠ .refuse) : goesOn (exec i s) := by
  have hends := exec_ends i s
  cases hexec : exec i s with
  | next t => exact ⟨t, rfl⟩
  | fault f => rw [hexec] at hends; exact hends.elim
  | refused r =>
    rw [hexec] at hends
    obtain ⟨-, -, hrefuse, -⟩ := hends
    exact absurd hrefuse h

/-- Settles O15: a failed fetch enters PrefetchAbort, and a fetched word is an instruction that goes on. -/
theorem runnableStepGoesOn : Obligations.RunnableStepGoesOn := by
  unfold Obligations.RunnableStepGoesOn
  intro s hrun hpolicy
  rw [step_of_runnable hrun]
  cases s.fetch with
  | none => exact ⟨s.fetchAbort, rfl⟩
  | some w => exact goesOn_exec (s := s.advance) hpolicy

end Sys2Proof.Machine
end

section
/-! SUPPORT. The checks before the fetch (R171), the exception entry (R422), and the two outcomes of the fetch (R172,
R173); then the proofs of O5, O6 and O7. -/

namespace Sys2Proof.Machine

/-! ## The checks of R171 -/

theorem pcAligned_eq_false_iff (s : State) : s.pcAligned = false ↔ s.pc.toNat % 4 ≠ 0 := by
  rw [State.pcAligned, bits, beq_eq_false_iff_ne, ne_eq, ← BitVec.toNat_inj, BitVec.extractLsb'_toNat]
  simp

/-- Settles O5: the three tests of `step`, each where the ones before it pass. -/
theorem stepChecks : Obligations.StepChecks := by
  unfold Obligations.StepChecks
  intro s
  refine ⟨fun hmode => ?_, fun hmode hthumb => ?_, fun hmode hthumb hpc => ?_⟩
  · rw [step, hmode]
  · obtain ⟨m, hm⟩ := Option.isSome_iff_exists.1 hmode
    simp [step, hm, hthumb]
  · obtain ⟨m, hm⟩ := Option.isSome_iff_exists.1 hmode
    simp [step, hm, hthumb, (pcAligned_eq_false_iff s).2 hpc]

/-! ## The exception entry (R422) -/

/-- `enter` is the exception entry of R422, field by field. -/
theorem entered_enter (e : Cause) (r : Word) (s : State) : entered e r s (s.enter e r) := by
  refine ⟨pc_enter s e r, ?_, fun d hd => ?_, enter_spsrs s e r, mode?_enter s e r, ?_, ?_, ?_, fun j hj => ?_,
    ⟨fun _ => rfl, enter_mem s e r⟩, enter_params s e r, enter_result s e r⟩
  · simp
  · simp only [List.mem_cons, List.not_mem_nil, or_false, not_or] at hd
    rw [getCell_enter, if_neg hd.1, if_neg hd.2]
  · exact bit_entryCpsr e s.cpsr 5 (by decide)
  · exact bit_entryCpsr e s.cpsr 7 (by decide)
  · rw [fiqDisable, enter_cpsr, bit_entryCpsr e s.cpsr 6 (by decide)]
    cases e.setsF <;> rfl
  · rw [enter_cpsr, bit_entryCpsr e s.cpsr j (by omega), if_neg (by omega), if_neg (by omega), if_neg (by omega)]

/-! ## The advanced state (R173) -/

theorem sameCellsBut_advance (s : State) : sameCellsBut [.r15] s s.advance := by
  intro d hd
  rw [getCell_advance, if_neg (List.mem_singleton.not.1 hd)]

theorem sameMemory_advance (s : State) : sameMemory s s.advance := ⟨fun _ => rfl, advance_mem s⟩

/-! ## The fetch (R172, R173) -/

theorem step_of_fetch_some {s : State} {w : Word} (hrun : s.runnable = true) (hfetch : s.fetch = some w) :
    step s = exec (decodeWord w) s.advance := by
  rw [step_of_runnable hrun, hfetch]

theorem step_of_fetch_none {s : State} (hrun : s.runnable = true) (hfetch : s.fetch = none) :
    step s = .next s.fetchAbort := by
  rw [step_of_runnable hrun, hfetch]

theorem fetch_of_outside {s : State} (h : s.params.memSize < s.pc.toNat + 4) : s.fetch = none :=
  load_of_outside s .word s.pc ((inMemory_false_iff s .word s.pc).2 h)

/-- The word fetched is that of the four bytes at the pc. -/
theorem fetch_of_inside {s : State} (h : s.pc.toNat + 4 ≤ s.params.memSize) :
    s.fetch = some (assemble s.params.bigEndian (s.mem.readBytes s.pc.toNat 4)) :=
  load_of_inMemory s .word s.pc ((inMemory_iff s .word s.pc).2 h)

/-- Settles O6: the fetch answers none, and the step enters PrefetchAbort at the pc. -/
theorem failedFetch : Obligations.FailedFetch := by
  unfold Obligations.FailedFetch
  intro s hrun hsize
  exact ⟨s.fetchAbort, step_of_fetch_none hrun (fetch_of_outside hsize), entered_enter .., rfl⟩

/-- Four bytes decode to what the word made of them decodes to. -/
theorem decodeWord_of_decode {bigEndian : Bool} {bs : List Byte} {i : Instr} (hlen : bs.length = 4)
    (h : decode bigEndian bs = .ok (i, [])) : decodeWord (assemble bigEndian bs) = i := by
  have hword := decode_append_of_length hlen bigEndian []
  rw [List.append_nil, h] at hword
  cases hword
  rfl

/-- Settles O7: the fetched word is made of the four bytes, so it decodes to the same instruction. -/
theorem stepRunsDecodedInstruction : Obligations.StepRunsDecodedInstruction := by
  unfold Obligations.StepRunsDecodedInstruction
  intro s i hrun hsize hdecode
  refine ⟨?_, pc_advance s, ia_advance s, sameCellsBut_advance s, advance_cpsr s, advance_spsrs s, advance_mem s,
    advance_params s, advance_result s⟩
  rw [step_of_fetch_some hrun (fetch_of_inside hsize), decodeWord_of_decode (Memory.length_readBytes ..) hdecode]

end Sys2Proof.Machine
end

section
/-! SUPPORT. The condition of an instruction (R175, R176): where it stands in the word, and that every meaning tests it
first; then the proofs of O8 and O9. -/

namespace Sys2Proof.Machine

/-! ## The condition table (R176) -/

@[simp] theorem condHolds_al (p : Psr) : condHolds .al p = true := rfl

/-- Settles O9: a condition's code selects its row of `passes`, which is the table's. -/
theorem conditionTable : Obligations.ConditionTable := by
  unfold Obligations.ConditionTable
  refine ⟨fun p => ?_, rfl, fun n z c v => rfl⟩
  exact ⟨rfl, rfl, rfl, rfl, rfl, rfl, rfl, rfl, rfl, rfl, rfl, rfl, rfl, rfl, condHolds_al p⟩

/-! ## Every conditional meaning tests its condition first (R175) -/

/-- The meaning of a conditional instruction is all behind its condition. -/
theorem exec_eq_ifPasses {i : Instr} {c : Cond} (s : State) (h : i.cond? = some c) :
    ∃ k, exec i s = s.ifPasses c k := by
  cases i <;> cases h <;> exact ⟨_, rfl⟩

theorem exec_of_fails {i : Instr} {c : Cond} {s : State} (h : i.cond? = some c) (hf : condHolds c s.cpsr = false) :
    exec i s = .next s := by
  obtain ⟨k, hk⟩ := exec_eq_ifPasses s h
  rw [hk, ifPasses_of_fails k hf]

/-! ## The condition of a decoded word: every leaf of the tree of R122 holds the condition given to its root -/

variable (c : Cond) (w : Word)

theorem cond?_decodeDpImm : (decodeDpImm c w).cond? = some c := by
  unfold decodeDpImm
  cases DpOp.ofCode (bits w 21 4) <;> rfl

theorem cond?_decodeDpImmShift : (decodeDpImmShift c w).cond? = some c := by
  unfold decodeDpImmShift
  cases DpOp.ofCode (bits w 21 4) <;> rfl

theorem cond?_decodeDpRegShift : (decodeDpRegShift c w).cond? = some c := by
  unfold decodeDpRegShift
  cases DpOp.ofCode (bits w 21 4) <;> rfl

/-- The condition is read off each leaf, and it is the same at all of them. -/
theorem cond?_decodeClass : (decodeClass c w).cond? = some c := by
  simp only [decodeClass, decodeClass0, decodeClass1, decodeClass2, decodeClass3, decodeClass4, decodeClass5,
    decodeClass6, decodeClass7, decodeMulSwap, decodeExtra, decodeMisc, cond?_decodeDpImm, cond?_decodeDpImmShift,
    cond?_decodeDpRegShift, apply_ite Instr.cond?]
  simp only [Instr.cond?, ite_self]

variable {c w}

theorem decodeWord_of_ofCode (h : Cond.ofCode (bits w 28 4) = some c) : decodeWord w = decodeClass c w := by
  rw [decodeWord, h]

/-- The condition field w[31:28] gives the instruction its condition (R121). -/
theorem cond?_decodeWord_of_ofCode (h : Cond.ofCode (bits w 28 4) = some c) : (decodeWord w).cond? = some c := by
  rw [decodeWord_of_ofCode h, cond?_decodeClass]

/-! ## The skip (R175) -/

/-- A step whose instruction's condition fails only advances the pc (R175). -/
theorem step_of_fails {s : State} {w : Word} {c : Cond} (hrun : s.runnable = true) (hfetch : s.fetch = some w)
    (hc : (decodeWord w).cond? = some c) (hf : condHolds c s.cpsr = false) : step s = .next s.advance := by
  rw [step_of_fetch_some hrun hfetch]
  exact exec_of_fails (s := s.advance) hc hf

/-- Settles O8: the meaning is all behind its condition, which the decoder reads from w[31:28]. -/
theorem failedConditionSkips : Obligations.FailedConditionSkips := by
  unfold Obligations.FailedConditionSkips
  refine ⟨fun i c s => exec_of_fails, fun s w c hrun hload hcode hf => ?_, condHolds_al⟩
  exact ⟨s.advance, step_of_fails hrun hload (cond?_decodeWord_of_ofCode hcode) hf, pc_advance s,
    sameCellsBut_advance s, advance_cpsr s, advance_spsrs s, sameMemory_advance s, advance_params s, advance_result s⟩

end Sys2Proof.Machine
end

section
/-! SUPPORT. How a step can stop (R180, R181): by a check of R171, by the policy of R380, or by the sentinel; then the
proofs of O16 and O17. -/

namespace Sys2Proof.Machine

/-- An instruction is refused only as an unrouted one whose condition passes, where UNROUTED_POLICY is Refuse (R380). -/
theorem exec_refused {i : Instr} {s : State} {r : Refusal} (h : exec i s = .refused r) :
    r = .unrouted ∧ i.isUnrouted = true ∧ s.params.unrouted = .refuse ∧
      ∃ c, i.cond? = some c ∧ condHolds c s.cpsr = true := by
  have hends := exec_ends i s
  rw [h] at hends
  exact hends

/-- A step that is refused in a runnable state fetched a word whose instruction is refused. -/
theorem fetch_of_step_refused {s : State} {r : Refusal} (hrun : s.runnable = true) (h : step s = .refused r) :
    ∃ w, s.fetch = some w ∧ exec (decodeWord w) s.advance = .refused r := by
  cases hfetch : s.fetch with
  | none =>
    rw [step_of_fetch_none hrun hfetch] at h
    cases h
  | some w => exact ⟨w, rfl, (step_of_fetch_some hrun hfetch).symm.trans h⟩

/-- Settles O16: a step is refused by a check of R171 or by the policy of R380, and there is no fault to answer. -/
theorem refusalsAreListed : Obligations.RefusalsAreListed := by
  unfold Obligations.RefusalsAreListed
  refine ⟨fun _ f => (nomatch f), fun s r h => ?_⟩
  cases hrun : s.runnable with
  | false =>
    obtain ⟨hr, hmode⟩ | ⟨hr, hthumb⟩ | ⟨hr, hpc⟩ := step_of_not_runnable hrun <;> rw [h] at hr <;> cases hr
    · exact .inl ⟨rfl, hmode⟩
    · exact .inr (.inl ⟨rfl, hthumb⟩)
    · exact .inr (.inr (.inl ⟨rfl, (pcAligned_eq_false_iff s).1 hpc⟩))
  | true =>
    obtain ⟨w, hfetch, hexec⟩ := fetch_of_step_refused hrun h
    obtain ⟨hr, hunrouted, hpolicy, c, hc, hpass⟩ := exec_refused hexec
    exact .inr (.inr (.inr ⟨hr, rfl, hpolicy, w, c, hfetch, hunrouted, hc, hpass⟩))

/-- An instruction that ends in Halt is the sentinel, with its condition passing (R181). -/
theorem exec_halt {i : Instr} {s t : State} (hs : s.result ≠ .halt) (h : exec i s = .next t) (ht : t.result = .halt) :
    t = s.halt ∧ ∃ c, i = .swiHalt c ∧ condHolds c s.cpsr = true := by
  have hends := exec_ends i s
  rw [h] at hends
  obtain q | p | hhalt | ⟨m, e, rfl, -⟩ := hends
  · exact absurd (q.result.symm.trans ht) hs
  · exact absurd (p.result.symm.trans ht) hs
  · exact hhalt
  · cases ht

/-- Settles O17: of the effects of an instruction only the sentinel's gives Halt, and it changes the result alone. -/
theorem haltOnlyBySentinel : Obligations.HaltOnlyBySentinel := by
  unfold Obligations.HaltOnlyBySentinel
  intro s t h ht
  obtain ⟨-, ⟨-, rfl⟩ | ⟨w, hfetch, hexec⟩⟩ := step_next h
  · cases ht
  · obtain ⟨rfl, c, hi, hpass⟩ := exec_halt (s := s.advance) nofun hexec ht
    exact ⟨⟨w, c, hfetch, hi, hpass⟩, pc_advance s, sameCellsBut_advance s, advance_cpsr s, advance_spsrs s,
      sameMemory_advance s⟩

end Sys2Proof.Machine
end

section
/-! SUPPORT. The encodings that raise UndefinedInstruction (R138, R174, R351–R354, R393), as rows and as words; then the
proof of O24. -/

namespace Sys2Proof.Machine

/-! ## The rows -/

/-- A row that raises UndefinedInstruction does so behind its condition, or always where it has none (R174). -/
theorem exec_of_raisesUndefined {i : Instr} {s : State} (h : raisesUndefined i = true)
    (hpass : ∀ c, i.cond? = some c → condHolds c s.cpsr = true) : exec i s = .next s.raiseUndefined := by
  cases i
  case blxImm | undefCond1111 => rfl
  case undefMulswp | undefMisc | undefClass1Move | undefClass3 | ldc | stc | cdp | mrc | mcr =>
    exact ifPasses_of_holds _ (hpass _ rfl)
  all_goals cases h

/-! ## The words -/

variable {c : Cond} {w : Word}

/-- The whole space with cond = 0b1111 is undefined and has no condition (R174, R393). -/
theorem decodeWord_undefined_of_1111 (h : bits w 28 4 = 0b1111#4) :
    raisesUndefined (decodeWord w) = true ∧ (decodeWord w).cond? = none := by
  rw [decodeWord, h]
  simp only [Cond.ofCode]
  split_ifs <;> exact ⟨rfl, rfl⟩

/-- Every other condition field names a condition (R176). -/
theorem exists_ofCode {b : BitVec 4} (h : b ≠ 0b1111#4) : ∃ c, Cond.ofCode b = some c :=
  Option.ne_none_iff_exists'.1 fun hnone => h (Cond.ofCode_eq_none hnone)

/-- Class 110: LDC and STC (R351). -/
theorem raisesUndefined_decodeClass6 : raisesUndefined (decodeClass6 c w) = true := by
  unfold decodeClass6
  split_ifs <;> rfl

/-- Class 111 but for SWI: CDP, MRC and MCR (R352, R353). -/
theorem raisesUndefined_decodeClass7 (h : bit w 24 = false) : raisesUndefined (decodeClass7 c w) = true := by
  simp only [decodeClass7, h, Bool.false_eq_true, if_false]
  split_ifs <;> rfl

theorem raisesUndefined_decodeClass3 (h : bit w 4 = true) : raisesUndefined (decodeClass3 c w) = true := by
  simp only [decodeClass3, h, if_true]
  rfl

theorem raisesUndefined_decodeClass1 (h23 : bits w 23 2 = 0b10#2) (h20 : bits w 20 2 = 0b00#2) :
    raisesUndefined (decodeClass1 c w) = true := by
  simp [bits_succ_eq_literal] at h20
  simp [decodeClass1, h23, h20, raisesUndefined]

/-- A word of the multiply and swap space that names no instruction there is a word of its undefined row. -/
theorem encodes_undefMulswp (hc : bits w 28 4 = c.code) (hclass : bits w 25 3 = 0b000#3) (h4 : bits w 4 4 = 0b1001#4)
    (hop : isMulSwpOp (bits w 20 5) = false) : Encodes w (.undefMulswp c (bits w 20 5) (bits w 8 12) (bits w 0 4)) := by
  simp (disch := decide) [Encodes, Instr.wf, sbzMask, encode, hc, hclass, h4, hop]

/-- A word of the miscellaneous space that names no instruction there is a word of its undefined row. -/
theorem encodes_undefMisc (hc : bits w 28 4 = c.code) (hclass : bits w 25 3 = 0b000#3) (h23 : bits w 23 2 = 0b10#2)
    (h20 : bit w 20 = false) (hop : isMiscOp (bits w 21 2) (bits w 4 4) = false) :
    Encodes w (.undefMisc c (bits w 21 2) (bits w 0 20)) := by
  simp [bits_succ_eq_literal] at hclass h23
  simp (disch := decide) [Encodes, Instr.wf, sbzMask, encode, extractLsb'_bits, bits_succ_eq_literal, hc, hclass, h23,
    h20, hop]

/-- Settles O24: the rows raise UndefinedInstruction behind their condition; a word of an undefined space decodes by the
tree's tests, or is a word of the space's own row. -/
theorem undefinedEncodings : Obligations.UndefinedEncodings := by
  unfold Obligations.UndefinedEncodings
  refine ⟨fun i s h hpass => ?_, fun w => decodeWord_undefined_of_1111, fun w h => ?_⟩
  · exact ⟨s.raiseUndefined, exec_of_raisesUndefined h hpass, entered_enter ..⟩
  · obtain ⟨c, hcode⟩ := exists_ofCode h
    have hc : bits w 28 4 = c.code := (Cond.code_ofCode _ c hcode).symm
    have hword : decodeWord w = decodeClass c w := decodeWord_of_ofCode hcode
    refine ⟨fun hclass => ?_, fun hclass h24 => ?_, fun hclass h4 => ?_, fun hclass h23 h20 => ?_,
      fun hclass h4 hop => ?_, fun hclass h23 h20 hop => ?_⟩
    · simpa [hword, decodeClass, hclass] using raisesUndefined_decodeClass6
    · simpa [hword, decodeClass, hclass] using raisesUndefined_decodeClass7 h24
    · simpa [hword, decodeClass, hclass] using raisesUndefined_decodeClass3 h4
    · simpa [hword, decodeClass, hclass] using raisesUndefined_decodeClass1 h23 h20
    · rw [decodeWord_of_encodes (encodes_undefMulswp hc hclass h4 hop)]
      rfl
    · rw [decodeWord_of_encodes (encodes_undefMisc hc hclass h23 h20 hop)]
      rfl

end Sys2Proof.Machine
end

section
/-! SUPPORT. The shifter operand (R200–R203): the rows that the immediate-shift and the register-shift form share, and
the rotations in plain shifts; then the proofs of O29, O30 and O31. -/

namespace Sys2Proof.Machine

/-! ## Rotations and shifts of a word -/

/-- A rotation by less than the width is made of two shifts (R12). -/
theorem rotateRight_eq_or {n : Nat} (m : Word) (h : n < 32) : m.rotateRight n = m >>> n ||| m <<< (32 - n) :=
  BitVec.rotateRight_eq_rotateRightAux_of_lt h

theorem rotateRight_zero (m : Word) : m.rotateRight 0 = m := by
  rw [rotateRight_eq_or m (by decide), BitVec.shiftLeft_eq_zero le_rfl, BitVec.ushiftRight_zero, BitVec.or_zero]

/-- An arithmetic shift by 32 leaves the sign in every bit (R202, R203). -/
theorem sshiftRight_32 (m : Word) : m.sshiftRight 32 = if bit m 31 then 0xFFFFFFFF#32 else 0#32 := by
  have hmsb : m.msb = bit m 31 := BitVec.msb_eq_getLsbD_last m
  rw [← hmsb]
  cases h : m.msb
  · rw [BitVec.sshiftRight_eq_of_msb_false h, BitVec.ushiftRight_eq_zero le_rfl]
    rfl
  · rw [BitVec.sshiftRight_eq_of_msb_true h, BitVec.ushiftRight_eq_zero le_rfl]
    rfl

/-- RRX puts the carry in bit 31 (R202). -/
theorem bit_31_rrx (m : Word) (cin : Bool) : bit (rrx m cin) 31 = cin := by
  rw [rrx, bit_or, bit_place_inside _ _ _ (by decide) (by decide) (by decide)]
  simp [bit]

/-- RRX moves every other bit one place down (R202). -/
theorem bit_rrx {j : Nat} (m : Word) (cin : Bool) (h : j < 31) : bit (rrx m cin) j = bit m (j + 1) := by
  rw [rrx, bit_or, bit_place_below _ _ _ h, Bool.false_or, bit, bit, BitVec.getLsbD_ushiftRight, Nat.add_comm]

/-! ## The rows for an amount of 1 to 31, the same in both shift forms -/

/-- A shift by `n` places, where `n` is 1 to 31: the value, and the last bit shifted out (R202, R203). -/
def shiftedBy (k : ShiftKind) (n : Nat) (m : Word) : Shifted :=
  match k with
  | .lsl => ⟨m <<< n, bit m (32 - n)⟩
  | .lsr => ⟨m >>> n, bit m (n - 1)⟩
  | .asr => ⟨m.sshiftRight n, bit m (n - 1)⟩
  | .ror => ⟨m.rotateRight n, bit m (n - 1)⟩

theorem shiftByImm_of_ne_zero {amt : BitVec 5} (k : ShiftKind) (m : Word) (cin : Bool) (h : amt.toNat ≠ 0) :
    shiftByImm k amt m cin = shiftedBy k amt.toNat m := by
  cases k <;> exact if_neg h

section RegisterShift

variable {amount : BitVec 8} {n : Nat} (hn : amount.toNat = n) (m : Word) (cin : Bool)
include hn

theorem shiftByReg_of_zero (k : ShiftKind) (h : n = 0) : shiftByReg k amount m cin = ⟨m, cin⟩ := if_pos (hn.trans h)

theorem shiftByReg_of_lt (k : ShiftKind) (h : 1 ≤ n) (h' : n ≤ 31) :
    shiftByReg k amount m cin = shiftedBy k n m := by
  have hmod : n % 32 = n := Nat.mod_eq_of_lt (by omega)
  have hlt : n < 32 := by omega
  have hne : n ≠ 0 := by omega
  cases k <;> simp only [shiftByReg, shiftedBy, hn, hmod, if_neg hne, if_pos hlt]

/-- The rows for 32 and above of the kinds that do not rotate (R203). -/
theorem shiftByReg_of_ge (h : 32 ≤ n) :
    (shiftByReg .lsl amount m cin = if n = 32 then ⟨0#32, bit m 0⟩ else ⟨0#32, false⟩) ∧
    (shiftByReg .lsr amount m cin = if n = 32 then ⟨0#32, bit m 31⟩ else ⟨0#32, false⟩) ∧
    shiftByReg .asr amount m cin = ⟨if bit m 31 then 0xFFFFFFFF#32 else 0#32, bit m 31⟩ := by
  have hne : n ≠ 0 := by omega
  have hge : ¬n < 32 := by omega
  refine ⟨?_, ?_, ?_⟩ <;> simp only [shiftByReg, hn, if_neg hne, if_neg hge, sshiftRight_32]

/-- Only ROR takes its amount modulo 32 (R203). -/
theorem shiftByReg_ror (h : n ≠ 0) :
    shiftByReg .ror amount m cin = if n % 32 = 0 then ⟨m, bit m 31⟩ else shiftedBy .ror (n % 32) m := by
  simp only [shiftByReg, hn, if_neg h, shiftedBy]

end RegisterShift

variable (n : Nat) (m : Word)

theorem shiftedBy_lsl : (shiftedBy .lsl n m).value.toNat = m.toNat * 2 ^ n % 2 ^ 32 ∧
    (shiftedBy .lsl n m).carryOut = bit m (32 - n) := by
  refine ⟨?_, rfl⟩
  rw [shiftedBy, BitVec.toNat_shiftLeft, Nat.shiftLeft_eq]

theorem shiftedBy_lsr : (shiftedBy .lsr n m).value.toNat = m.toNat / 2 ^ n ∧
    (shiftedBy .lsr n m).carryOut = bit m (n - 1) := by
  refine ⟨?_, rfl⟩
  rw [shiftedBy, BitVec.toNat_ushiftRight, Nat.shiftRight_eq_div_pow]

theorem shiftedBy_asr : (shiftedBy .asr n m).value.toInt = m.toInt / 2 ^ n ∧
    (shiftedBy .asr n m).carryOut = bit m (n - 1) := by
  refine ⟨?_, rfl⟩
  rw [shiftedBy, BitVec.toInt_sshiftRight, Int.shiftRight_eq_div_pow]
  norm_cast

theorem shiftedBy_ror {n : Nat} (h : n < 32) : (shiftedBy .ror n m).value = (m >>> n ||| m <<< (32 - n)) ∧
    (shiftedBy .ror n m).carryOut = bit m (n - 1) :=
  ⟨rotateRight_eq_or m h, rfl⟩

/-! ## The three statements -/

/-- Settles O29: a rotation of 0 gives the immediate itself, and any other is less than 32. -/
theorem shifterImmediate : Obligations.ShifterImmediate := by
  unfold Obligations.ShifterImmediate
  refine fun s rot imm => ⟨?_, rfl⟩
  split
  next h =>
    subst h
    exact rotateRight_zero _
  next => exact rotateRight_eq_or _ (by omega)

/-- Settles O30: amount 0 is the first branch of each kind, and the others are shared rows. -/
theorem shifterImmediateShift : Obligations.ShifterImmediateShift := by
  unfold Obligations.ShifterImmediateShift
  intro s amt rm m n c r
  have hrow (h : n ≠ 0) (k : ShiftKind) : r k = shiftedBy k n m := shiftByImm_of_ne_zero k m c h
  have hrrx (h : n = 0) : r .ror = ⟨rrx m c, bit m 0⟩ := if_pos h
  refine ⟨fun h => if_pos h, fun h => hrow h .lsl ▸ shiftedBy_lsl n m, fun h => if_pos h,
    fun h => hrow h .lsr ▸ shiftedBy_lsr n m, fun h => ?_, fun h => hrow h .asr ▸ shiftedBy_asr n m, fun h => ?_,
    fun h => hrow h .ror ▸ shiftedBy_ror m amt.isLt⟩
  · rw [← sshiftRight_32]
    exact if_pos h
  · rw [hrrx h]
    exact ⟨rfl, bit_31_rrx m c, fun j => bit_rrx m c⟩

/-- Settles O31: amounts of 1 to 31, taken modulo 32 for ROR, are shared rows; the others are branches of the form. -/
theorem shifterRegisterShift : Obligations.ShifterRegisterShift := by
  unfold Obligations.ShifterRegisterShift
  intro s rs rm m n r
  have hn : ((s.x rs).setWidth 8).toNat = n := BitVec.toNat_setWidth ..
  have hrow (h : 1 ≤ n) (h' : n ≤ 31) (k : ShiftKind) : r k = shiftedBy k n m := shiftByReg_of_lt hn m _ k h h'
  have hge (h : 32 ≤ n) := shiftByReg_of_ge hn m (carry s.cpsr) h
  have hror (h : n ≠ 0) := shiftByReg_ror hn m (carry s.cpsr) h
  refine ⟨fun h k => shiftByReg_of_zero hn m _ k h, fun h h' => ?_, fun h => ?_, fun h => ?_, fun h h' => ?_,
    fun h => ?_, fun h => ?_, fun h h' => ?_, fun h => ?_, fun h h' => ?_, fun h => ?_⟩
  · exact hrow h h' .lsl ▸ shiftedBy_lsl n m
  · obtain ⟨hlsl, -, -⟩ := hge h.ge
    exact hlsl.trans (if_pos h)
  · obtain ⟨hlsl, -, -⟩ := hge (by omega)
    exact hlsl.trans (if_neg (by omega))
  · exact hrow h h' .lsr ▸ shiftedBy_lsr n m
  · obtain ⟨-, hlsr, -⟩ := hge h.ge
    exact hlsr.trans (if_pos h)
  · obtain ⟨-, hlsr, -⟩ := hge (by omega)
    exact hlsr.trans (if_neg (by omega))
  · exact hrow h h' .asr ▸ shiftedBy_asr n m
  · obtain ⟨-, -, hasr⟩ := hge h
    exact hasr
  · exact (hror h).trans (if_pos h')
  · have hrot : r .ror = shiftedBy .ror (n % 32) m := (hror (by omega)).trans (if_neg h)
    exact hrot ▸ shiftedBy_ror m (Nat.mod_lt n (by decide))

end Sys2Proof.Machine
end

section
/-! SUPPORT. The adder in exact sums and differences (R205), and the sixteen operations by the results and flags that the
claims give them (R207–R223); then the proof of O32. -/

namespace Sys2Proof.Machine

/-! ## The sum -/

/-- A signed value fits where cutting it to 32 bits keeps it. -/
theorem overflows_eq_bmod (x : Int) : overflows x = decide (x ≠ x.bmod (2 ^ 32)) := by
  rw [overflows, ← Bool.decide_or, decide_eq_decide, Int.bmod_def]
  omega

section Adder

variable (a b : Word) (cin : Bool)

theorem addWithCarry_value_eq_ite : (addWithCarry a b cin).value = a + b + (if cin then 1#32 else 0#32) := by
  rw [addWithCarry_value]
  cases cin <;> rfl

theorem toInt_addWithCarry_value :
    (addWithCarry a b cin).value.toInt = (a.toInt + b.toInt + cin.toNat).bmod (2 ^ 32) := by
  rw [addWithCarry_value_eq_ite, BitVec.toInt_add, BitVec.toInt_add, Int.bmod_add_bmod]
  cases cin <;> rfl

/-- V is the signed overflow of the exact sum (R205). -/
theorem addWithCarry_overflowOut :
    (addWithCarry a b cin).overflowOut = overflows (a.toInt + b.toInt + cin.toNat) := by
  rw [overflows_eq_bmod, ← toInt_addWithCarry_value]
  rfl

/-! ## The difference: the adder fed with a complement -/

theorem toInt_complement : (~~~b).toInt = -1 - b.toInt := by
  simp only [BitVec.toInt_eq_toNat_cond, BitVec.toNat_not]
  omega

theorem addWithCarry_not_value :
    (addWithCarry a (~~~b) cin).value = a - b - (if cin then 0#32 else 1#32) := by
  rw [addWithCarry_value_eq_ite, BitVec.not_eq_neg_add]
  split
  · rw [BitVec.sub_zero]
    ring
  · rw [BitVec.add_zero]
    ring

/-- C is NOT borrow (R205). -/
theorem addWithCarry_not_carryOut :
    (addWithCarry a (~~~b) cin).carryOut = decide (b.toNat + (if cin then 0 else 1) ≤ a.toNat) := by
  rw [addWithCarry_carryOut, decide_eq_decide, BitVec.toNat_not]
  cases cin <;> simp <;> omega

/-- V is the signed overflow of the exact difference (R205). -/
theorem addWithCarry_not_overflowOut :
    (addWithCarry a (~~~b) cin).overflowOut = overflows (a.toInt - b.toInt - (if cin then 0 else 1)) := by
  rw [addWithCarry_overflowOut, toInt_complement]
  congr 1
  cases cin <;> simp <;> omega

/-! ## The whole result -/

theorem addWithCarry_eq :
    addWithCarry a b cin = ⟨a + b + (if cin then 1#32 else 0#32), decide (2 ^ 32 ≤ a.toNat + b.toNat + cin.toNat),
      overflows (a.toInt + b.toInt + cin.toNat)⟩ := by
  rw [← addWithCarry_value_eq_ite, ← addWithCarry_carryOut, ← addWithCarry_overflowOut]

theorem addWithCarry_not_eq :
    addWithCarry a (~~~b) cin = ⟨a - b - (if cin then 0#32 else 1#32),
      decide (b.toNat + (if cin then 0 else 1) ≤ a.toNat),
      overflows (a.toInt - b.toInt - (if cin then 0 else 1))⟩ := by
  rw [← addWithCarry_not_value, ← addWithCarry_not_carryOut, ← addWithCarry_not_overflowOut]

theorem addWithCarry_false_eq :
    addWithCarry a b false = ⟨a + b, decide (2 ^ 32 ≤ a.toNat + b.toNat), overflows (a.toInt + b.toInt)⟩ := by
  simp [addWithCarry_eq]

theorem addWithCarry_not_true_eq :
    addWithCarry a (~~~b) true = ⟨a - b, decide (b.toNat ≤ a.toNat), overflows (a.toInt - b.toInt)⟩ := by
  simp [addWithCarry_not_eq]

end Adder

/-- Settles O32: the sums are the adder's own, and a subtraction is the adder fed with a complement. -/
theorem adder : Obligations.Adder := by
  unfold Obligations.Adder
  refine ⟨fun a b cin => ⟨BitVec.toNat_ofNat .., decide_eq_true_iff, decide_eq_true_iff⟩, fun a b p => ?_⟩
  refine ⟨rfl, rfl, rfl, rfl, rfl, rfl, rfl, rfl, ?_, ?_, ?_, ?_, ?_⟩
  · exact congrArg AluResult.value (addWithCarry_not_true_eq ..)
  · rw [aluSub, addWithCarry_not_true_eq, decide_eq_true_iff]
  · rw [aluSbc, addWithCarry_not_eq, decide_eq_true_iff]
  · rw [aluAdd, addWithCarry_false_eq]
  · rw [aluSub, addWithCarry_not_true_eq]

/-! ## The sixteen operations -/

/-- The operation that an opcode names (R123), as the meanings call it. -/
def dpAlu (op : DpOp) (a : Word) (b : Shifted) (p : Psr) : AluResult :=
  match op with
  | .and => aluAnd a b p | .eor => aluEor a b p | .sub => aluSub a b p | .rsb => aluRsb a b p
  | .add => aluAdd a b p | .adc => aluAdc a b p | .sbc => aluSbc a b p | .rsc => aluRsc a b p
  | .tst => aluTst a b p | .teq => aluTeq a b p | .cmp => aluCmp a b p | .cmn => aluCmn a b p
  | .orr => aluOrr a b p | .mov => aluMov b p | .bic => aluBic a b p | .mvn => aluMvn b p

/-- An opcode's operation gives the result and the flags that the claims give it (R207–R223). -/
theorem dpAlu_eq (op : DpOp) (a : Word) (b : Shifted) (p : Psr) :
    dpAlu op a b p = ⟨dpResult op a b.value (carry p), dpCarry op a b.value b.carryOut (carry p),
      dpOverflow op a b.value (carry p) (overflow p)⟩ := by
  cases op
  case and | eor | tst | teq | orr | mov | bic | mvn => rfl
  case add => exact addWithCarry_false_eq a b.value
  case cmn => exact addWithCarry_false_eq a b.value
  case adc =>
    refine (addWithCarry_eq a b.value (carry p)).trans ?_
    cases carry p <;> rfl
  case sub | cmp => exact addWithCarry_not_true_eq a b.value
  case rsb => exact addWithCarry_not_true_eq b.value a
  case sbc => exact addWithCarry_not_eq a b.value (carry p)
  case rsc => exact addWithCarry_not_eq b.value a (carry p)

end Sys2Proof.Machine
end

section
/-! SUPPORT. The data-processing family by its view (R206): every row is the write-back, or the comparison, of its
view's result and flags; then the proofs of O33, O34 and O35. -/

namespace Sys2Proof.Machine

/-! ## The rows -/

/-- The result and the flags of a data-processing instruction in a state (R206). -/
def DpView.alu (v : DpView) (s : State) : AluResult := ⟨v.result s, v.carryOut s, v.overflowOut s⟩

theorem DpView.dpAlu_eq_alu (v : DpView) (s : State) : dpAlu v.op (s.x v.rn) (v.shifted s) s.cpsr = v.alu s :=
  dpAlu_eq ..

/-- Every data-processing row: behind the condition and U1, the flags alone for a comparison and the write-back
otherwise (R204, R206). -/
theorem exec_of_dpView {i : Instr} {v : DpView} (s : State) (h : dpView i = some v) :
    exec i s = s.ifPasses v.cond (s.unlessUnpredictable v.unpredictable
      (if dpCompares v.op then dpCompare s (v.alu s) else dpWrite s v.sets v.rd (v.alu s))) := by
  rw [← DpView.dpAlu_eq_alu]
  cases i <;> cases h <;> rfl

section Runs

variable {i : Instr} {v : DpView} {s : State} (h : dpView i = some v) (hu : v.unpredictable = false)
  (hpass : condHolds v.cond s.cpsr = true)
include h hu hpass

theorem exec_eq_dpCompare (hop : dpCompares v.op = true) : exec i s = dpCompare s (v.alu s) := by
  rw [exec_of_dpView s h, ifPasses_of_holds _ hpass, hu, unlessUnpredictable_false, if_pos hop]

theorem exec_eq_dpWrite (hop : dpCompares v.op = false) : exec i s = dpWrite s v.sets v.rd (v.alu s) := by
  rw [exec_of_dpView s h, ifPasses_of_holds _ hpass, hu, unlessUnpredictable_false, hop, if_neg Bool.false_ne_true]

end Runs

/-! ## The three outcomes of the write-back (R206) -/

section WriteBack

variable {s : State} {sf : Bool} {rd : RegNo} (r : AluResult)

theorem dpWrite_of_ne_pc (h : rd ≠ 15#4) : dpWrite s sf rd r = .next (s.writeResult sf rd r) := by
  simp [dpWrite, h]

theorem dpWrite_of_ordinary (h : sf = false ∨ s.spsr? = none) :
    dpWrite s sf rd r = .next (s.writeResult sf rd r) := by
  obtain rfl | hnone := h
  · rfl
  · simp [dpWrite, hnone]

theorem dpWrite_pc_of_spsr {saved : Psr} (h : s.spsr? = some saved) :
    dpWrite s true 15#4 r = s.unlessUnpredictable (!legalMode saved) (.next (s.returnFrom saved r.value)) := by
  simp [dpWrite, h]

end WriteBack

/-! ## What the ordinary write-back changes -/

theorem flagsAre_setNZCV (p : Psr) (r : AluResult) :
    flagsAre p (setNZCV p r) (bit r.value 31) (r.value == 0#32) r.carryOut r.overflowOut := by
  refine ⟨bit_setNZCV p r 31, bit_setNZCV p r 30, bit_setNZCV p r 29, bit_setNZCV p r 28, fun j hj => ?_⟩
  rw [bit_setNZCV, if_neg (by omega), if_neg (by omega), if_neg (by omega), if_neg (by omega)]

theorem getCell_writeResult (s : State) (sf : Bool) (rd : RegNo) (r : AluResult) (d : RegCell) :
    (s.writeResult sf rd r).getCell d = if d = slot s.mode rd then r.value else s.getCell d := by
  cases sf <;> exact getCell_setX ..

/-- The ordinary write-back writes Rd and, with S = 1, the flags (R206). -/
theorem writeResult_effect (s : State) (sf : Bool) (rd : RegNo) (r : AluResult) :
    (s.writeResult sf rd r).getCell (slot s.mode rd) = r.value ∧
    sameCellsBut [slot s.mode rd] s (s.writeResult sf rd r) ∧
    (sf = true → flagsAre s.cpsr (s.writeResult sf rd r).cpsr (bit r.value 31) (r.value == 0#32) r.carryOut
      r.overflowOut) ∧
    (sf = false → (s.writeResult sf rd r).cpsr = s.cpsr) ∧
    sameStatusButCpsr s (s.writeResult sf rd r) ∧ sameMemory s (s.writeResult sf rd r) := by
  have hcells (d : RegCell) := getCell_writeResult s sf rd r d
  have hquiet := quiet_writeResult s sf rd r
  refine ⟨(hcells _).trans (if_pos rfl), fun d hd => ?_, ?_, ?_, ⟨hquiet.spsrs, hquiet.params, hquiet.result⟩, ?_⟩
  · exact (hcells d).trans (if_neg (List.mem_singleton.not.1 hd))
  · rintro rfl
    exact flagsAre_setNZCV s.cpsr r
  · rintro rfl
    rfl
  · cases sf <;> exact ⟨fun _ => rfl, rfl⟩

theorem sameCellsBut_returnFrom (s : State) (p : Psr) (v : Word) : sameCellsBut [.r15] s (s.returnFrom p v) := by
  intro d hd
  rw [getCell_returnFrom, if_neg (List.mem_singleton.not.1 hd)]

/-! ## The three statements -/

/-- Settles O33: with Rd other than R15 the write-back is the ordinary one. -/
theorem dataProcessingResults : Obligations.DataProcessingResults := by
  unfold Obligations.DataProcessingResults
  intro i v s h hop hrd hu hpass
  have hexec := (exec_eq_dpWrite h hu hpass hop).trans (dpWrite_of_ne_pc (v.alu s) hrd)
  exact ⟨_, hexec, writeResult_effect s v.sets v.rd (v.alu s)⟩

/-- Settles O34: a comparison writes the flags of its result and nothing else. -/
theorem comparisons : Obligations.Comparisons := by
  unfold Obligations.Comparisons
  intro i v s h hop hu hpass
  exact ⟨s.setFlags (v.alu s), exec_eq_dpCompare h hu hpass hop, flagsAre_setNZCV s.cpsr (v.alu s),
    fun d _ => getCell_setFlags .., ⟨rfl, rfl, rfl⟩, fun _ => rfl, rfl⟩

/-- Settles O35: with Rd = 15 the three cases are the branches of the write-back on S and the SPSR. -/
theorem dataProcessingToPc : Obligations.DataProcessingToPc := by
  unfold Obligations.DataProcessingToPc
  intro i v s h hop hrd hu hpass
  have hexec : exec i s = dpWrite s v.sets 15#4 (v.alu s) := hrd ▸ exec_eq_dpWrite h hu hpass hop
  refine ⟨fun hord => ?_, fun saved hs hsaved hlegal => ?_, fun saved hs hsaved hillegal => ?_⟩
  · exact ⟨_, hexec.trans (dpWrite_of_ordinary _ hord), writeResult_effect s v.sets 15#4 (v.alu s)⟩
  · rw [hs, dpWrite_pc_of_spsr _ hsaved, hlegal] at hexec
    exact ⟨s.returnFrom saved (v.result s), hexec, pc_setPc .., rfl, sameCellsBut_returnFrom _ _ _,
      ⟨rfl, rfl, rfl⟩, fun _ => rfl, rfl⟩
  · rw [hs, dpWrite_pc_of_spsr _ hsaved, hillegal] at hexec
    exact hexec

end Sys2Proof.Machine
end

section
/-! SUPPORT. What the single transfers of both addressing modes share: the value of a byte and of a rotated word read
(R98, R101), the base write-back (R251, R280), and what a load and a store leave with it. -/

namespace Sys2Proof.Machine

/-! ## The values read -/

theorem toNat_bits_zero (w : Word) (n : Nat) : (bits w 0 n).toNat = w.toNat % 2 ^ n := by
  rw [bits, BitVec.extractLsb'_toNat, Nat.shiftRight_zero]

/-- A word load from any address is the aligned word, rotated by the byte offset (R98). -/
theorem loadRotated_of_load {s : State} {a data : Word} (h : s.load .word (wordAligned a) = some data) :
    s.loadRotated a = some (data.rotateRight (8 * (a.toNat % 4))) := by
  rw [State.loadRotated, h, Option.map_some, toNat_bits_zero]
  rfl

theorem loadRotated_of_outside {s : State} {a : Word} (h : s.inMemory .word (wordAligned a) = false) :
    s.loadRotated a = none := by
  rw [State.loadRotated, load_of_outside _ _ _ h, Option.map_none]

/-- One byte has no byte order (R94). -/
theorem assemble_singleton (bigEndian : Bool) (b : Byte) : assemble bigEndian [b] = b.setWidth 32 := by
  cases bigEndian <;> exact BitVec.zero_or

theorem load_byte_of_inMemory {s : State} {a : Word} (h : s.inMemory .byte a = true) :
    s.load .byte a = some ((s.byteAt a.toNat).setWidth 32) :=
  (load_of_inMemory s .byte a h).trans (congrArg some (assemble_singleton ..))

theorem setWidth_byte_zext (b : Byte) : (b.setWidth 32).setWidth 8 = b := by
  rw [BitVec.setWidth_setWidth_of_le _ (by decide), BitVec.setWidth_eq]

theorem byteAt_of_load_byte {s : State} {a d : Word} (h : s.load .byte a = some d) :
    s.byteAt a.toNat = d.setWidth 8 := by
  have hd : d = (s.byteAt a.toNat).setWidth 32 := (load_eq_some h).trans (assemble_singleton ..)
  rw [hd, setWidth_byte_zext]

/-- A load reads memory and the parameters alone. -/
theorem load_congr {s t : State} (hmem : t.mem = s.mem) (hparams : t.params = s.params) (w : Width) (a : Word) :
    t.load w a = s.load w a := by
  have hin : t.inMemory w a = s.inMemory w a := by rw [State.inMemory, State.inMemory, hparams]
  rw [State.load, State.load, hin, hparams, hmem]

/-! ## The base write-back (R251, R280) -/

theorem sameStatus_writeBack (s : State) (i : Index) (rn : RegNo) (nb : Word) :
    sameStatus s (s.writeBack i rn nb) := by
  cases i with
  | offset => exact ⟨rfl, rfl, rfl, rfl⟩
  | preIndexed | postIndexed | postW => exact sameStatus_setCell ..

theorem sameMemory_writeBack (s : State) (i : Index) (rn : RegNo) (nb : Word) :
    sameMemory s (s.writeBack i rn nb) := by
  cases i with
  | offset => exact ⟨fun _ => rfl, rfl⟩
  | preIndexed | postIndexed | postW => exact sameMemory_setCell ..

/-- The base takes the new base where the index mode says so, and no other cell changes. -/
theorem writeBack_cells (s : State) (i : Index) (rn : RegNo) (nb : Word) :
    (Index.writesBack i = true → (s.writeBack i rn nb).getCell (slot s.mode rn) = nb) ∧
    sameCellsBut (if Index.writesBack i then [slot s.mode rn] else []) s (s.writeBack i rn nb) := by
  cases i with
  | offset => exact ⟨nofun, fun _ _ => rfl⟩
  | preIndexed | postIndexed | postW => exact ⟨fun _ => getCell_setCell_self .., sameCellsBut_setCell _ _ _⟩

/-! ## What a load leaves -/

/-- A register loaded after the write-back of another one: the two cells, and no other. -/
theorem loaded_cells {s t : State} {i : Index} {rn rd : RegNo} {nb x : Word}
    (ht : ∀ d, t.getCell d = if d = slot s.mode rd then x else (s.writeBack i rn nb).getCell d)
    (hne : Index.writesBack i = true → rn ≠ rd) :
    t.getCell (slot s.mode rd) = x ∧ (Index.writesBack i = true → t.getCell (slot s.mode rn) = nb) ∧
    sameCellsBut (slot s.mode rd :: if Index.writesBack i then [slot s.mode rn] else []) s t := by
  obtain ⟨hbase, hframe⟩ := writeBack_cells s i rn nb
  refine ⟨(ht _).trans (if_pos rfl), fun hw => ?_, fun d hd => ?_⟩
  · rw [ht, if_neg (mt (slot_inj ..).1 (hne hw)), hbase hw]
  · obtain ⟨hrd, hrest⟩ := not_or.1 (List.mem_cons.not.1 hd)
    rw [ht, if_neg hrd, hframe d hrest]

/-- The write-back and then Rd: the two registers and nothing else (R253, R255, R282). -/
theorem writeBack_setX_effect {s t : State} {i : Index} {rn rd : RegNo} {nb x : Word}
    (ht : t = (s.writeBack i rn nb).setX rd x) (hne : Index.writesBack i = true → rn ≠ rd) :
    t.getCell (slot s.mode rd) = x ∧ (Index.writesBack i = true → t.getCell (slot s.mode rn) = nb) ∧
    sameCellsBut (slot s.mode rd :: if Index.writesBack i then [slot s.mode rn] else []) s t ∧
    sameStatus s t ∧ sameMemory s t := by
  subst ht
  have hcell (d : RegCell) : ((s.writeBack i rn nb).setX rd x).getCell d =
      if d = slot s.mode rd then x else (s.writeBack i rn nb).getCell d := by
    rw [getCell_setX, (quiet_writeBack s i rn nb).mode]
  obtain ⟨hrd, hbase, hframe⟩ := loaded_cells hcell hne
  exact ⟨hrd, hbase, hframe, sameStatus_writeBack s i rn nb, sameMemory_writeBack s i rn nb⟩

/-! ## What a store leaves -/

/-- The store and then the write-back: the bytes of the access, the base, and nothing else (R254, R256, R283). -/
theorem store_writeBack_effect {s t u : State} {w : Width} {a x nb : Word} {i : Index} {rn : RegNo}
    (hm : s.mem.wf = true) (h : s.store w a x = some t) (hu : u = t.writeBack i rn nb) :
    u.load w a = some (w.low x) ∧ sameMemoryBut a w.bytes s u ∧
    (Index.writesBack i = true → u.getCell (slot s.mode rn) = nb) ∧
    sameCellsBut (if Index.writesBack i then [slot s.mode rn] else []) s u ∧ sameStatus s u := by
  subst hu
  obtain ⟨hregs, hcpsr, hspsrs, hparams, hresult⟩ := store_frame s t w a x h
  obtain ⟨hcpsr', hspsrs', hparams', hresult'⟩ := sameStatus_writeBack t i rn nb
  obtain ⟨hbase, hframe⟩ := writeBack_cells t i rn nb
  obtain ⟨hbytes, hmem⟩ := sameMemory_writeBack t i rn nb
  rw [mode_congr s t hcpsr] at hbase hframe
  refine ⟨(load_congr hmem hparams' w a).trans (load_store s t w a x hm h), fun b hb => ?_, hbase, fun d hd => ?_,
    hcpsr'.trans hcpsr, hspsrs'.trans hspsrs, hparams'.trans hparams, hresult'.trans hresult⟩
  · exact (hbytes b).trans (byteAt_store s t w a x b hm h hb)
  · exact (hframe d hd).trans (getCell_of_regs_eq hregs d)

end Sys2Proof.Machine
end

section
/-! SUPPORT. The word and byte transfers by their view (R250–R260): every row is the access of its view, behind the
condition and the UNPREDICTABLE conditions; then the proofs of O36, O37 and O38. -/

namespace Sys2Proof.Machine

/-! ## The rows -/

/-- The UNPREDICTABLE conditions in the order in which a row's meaning tests them: the offset's, then the registers'
(R252). -/
def LsView.rowUnpredictable (v : LsView) : Bool :=
  match v.offset with
  | .imm _ => unpredictableLs v.idx v.isByte v.rn v.rd
  | .reg _ _ rm => unpredictableLsReg v.idx v.rn rm || unpredictableLs v.idx v.isByte v.rn v.rd

theorem LsView.unpredictable_eq (v : LsView) : v.unpredictable = v.rowUnpredictable := by
  unfold LsView.unpredictable LsView.rowUnpredictable
  cases v.offset with
  | imm => rfl
  | reg => simp only [unpredictableLsReg, unpredictableLs, Bool.or_assoc]; rfl

/-- The state after LDR with the value read: R15 by the interworking branch, another register by a write (R253). -/
def LsView.wordLoaded (v : LsView) (s : State) (data : Word) : State :=
  if v.rd = 15#4 then (s.writeBack v.idx v.rn (v.newBaseIn s)).branchExchange data
  else (s.writeBack v.idx v.rn (v.newBaseIn s)).setX v.rd data

/-- The access of a word or byte transfer and what follows it (R253–R256). -/
def LsView.access (v : LsView) (s : State) : Out :=
  match v.loads, v.isByte with
  | true, false => s.orAbort (s.loadRotated (v.addrIn s)) (v.wordLoaded s)
  | true, true =>
    s.orAbort (s.load .byte (v.addrIn s)) fun data => (s.writeBack v.idx v.rn (v.newBaseIn s)).setX v.rd data
  | false, false =>
    s.orAbort (s.storeAligned (v.addrIn s) (s.x v.rd)) fun t => t.writeBack v.idx v.rn (v.newBaseIn s)
  | false, true =>
    s.orAbort (s.store .byte (v.addrIn s) (s.x v.rd)) fun t => t.writeBack v.idx v.rn (v.newBaseIn s)

/-- Every row of mode 2: behind the condition and U9–U13, the access of its view (R252–R260). -/
theorem exec_of_lsView {i : Instr} {v : LsView} (s : State) (h : lsView i = some v) :
    exec i s = s.ifPasses v.cond (s.unlessUnpredictable v.unpredictable (v.access s)) := by
  rw [LsView.unpredictable_eq]
  cases i <;> cases h <;> rfl

/-- Without U10 the base written back is not Rd (R252). -/
theorem LsView.rn_ne_rd_of_wb {v : LsView} (hu : v.unpredictable = false) (hwb : v.wb = true) : v.rn ≠ v.rd := by
  simp only [LsView.unpredictable, Bool.or_eq_false_iff, hwb, Bool.true_and, beq_eq_false_iff_ne] at hu
  obtain ⟨⟨-, hne⟩, -⟩ := hu
  exact hne

section Accesses

variable {i : Instr} {v : LsView} {s : State} (h : lsView i = some v) (hu : v.unpredictable = false)
  (hpass : condHolds v.cond s.cpsr = true)
include h hu hpass

theorem exec_eq_lsAccess : exec i s = v.access s := by
  rw [exec_of_lsView s h, ifPasses_of_holds _ hpass, hu, unlessUnpredictable_false]

theorem exec_ldr {data : Word} (hl : v.loads = true) (hb : v.isByte = false)
    (hload : s.load .word (wordAligned (v.addrIn s)) = some data) :
    exec i s = .next (v.wordLoaded s (data.rotateRight (8 * ((v.addrIn s).toNat % 4)))) := by
  simp only [exec_eq_lsAccess h hu hpass, LsView.access, hl, hb, loadRotated_of_load hload, orAbort_some]

theorem exec_ldrb (hl : v.loads = true) (hb : v.isByte = true) (hin : s.inMemory .byte (v.addrIn s) = true) :
    exec i s = .next ((s.writeBack v.idx v.rn (v.newBaseIn s)).setX v.rd
      ((s.byteAt (v.addrIn s).toNat).setWidth 32)) := by
  simp only [exec_eq_lsAccess h hu hpass, LsView.access, hl, hb, load_byte_of_inMemory hin, orAbort_some]

theorem exec_str {t : State} (hl : v.loads = false) (hb : v.isByte = false)
    (hstore : s.store .word (wordAligned (v.addrIn s)) (s.x v.rd) = some t) :
    exec i s = .next (t.writeBack v.idx v.rn (v.newBaseIn s)) := by
  simp only [exec_eq_lsAccess h hu hpass, LsView.access, hl, hb, State.storeAligned, hstore, orAbort_some]

theorem exec_strb {t : State} (hl : v.loads = false) (hb : v.isByte = true)
    (hstore : s.store .byte (v.addrIn s) (s.x v.rd) = some t) :
    exec i s = .next (t.writeBack v.idx v.rn (v.newBaseIn s)) := by
  simp only [exec_eq_lsAccess h hu hpass, LsView.access, hl, hb, hstore, orAbort_some]

end Accesses

/-! ## R15 loaded by LDR (R253) -/

theorem thumbIs_setThumb (p : Psr) (b : Bool) : thumbIs p (setThumb p b) b :=
  ⟨(bit_setThumb p b 5).trans (if_pos rfl), fun j hj => (bit_setThumb p b j).trans (if_neg hj)⟩

/-- The write-back and then the interworking branch: the pc, T, the base, and nothing else (R253). -/
theorem writeBack_branchExchange_effect {s t : State} {i : Index} {rn : RegNo} {nb x : Word}
    (ht : t = (s.writeBack i rn nb).branchExchange x) (hne : Index.writesBack i = true → rn ≠ 15#4) :
    t.pc = clearBit0 x ∧ thumbIs s.cpsr t.cpsr (bit x 0) ∧
    (Index.writesBack i = true → t.getCell (slot s.mode rn) = nb) ∧
    sameCellsBut (slot s.mode 15#4 :: if Index.writesBack i then [slot s.mode rn] else []) s t ∧
    sameStatusButCpsr s t ∧ sameMemory s t := by
  subst ht
  obtain ⟨hcpsr, hstatus⟩ := sameStatus_writeBack s i rn nb
  obtain ⟨hpc, hbase, hframe⟩ := loaded_cells (rd := 15#4) (getCell_branchExchange (s.writeBack i rn nb) x) hne
  refine ⟨hpc, ?_, hbase, hframe, hstatus, sameMemory_writeBack s i rn nb⟩
  rw [branchExchange_cpsr, hcpsr]
  exact thumbIs_setThumb ..

/-! ## The three statements -/

/-- Settles O36: Rd = 15 is the interworking branch after the write-back, another Rd a register write after it. -/
theorem loadWord : Obligations.LoadWord := by
  unfold Obligations.LoadWord
  intro i v s data h hl hb hu hpass hload r
  have hne : v.wb = true → v.rn ≠ v.rd := LsView.rn_ne_rd_of_wb hu
  refine ⟨v.wordLoaded s r, exec_ldr h hu hpass hl hb hload, ?_⟩
  by_cases hrd : v.rd = 15#4
  · have hloaded : v.wordLoaded s r = _ := if_pos hrd
    rw [hrd] at hne ⊢
    obtain ⟨hpc, hthumb, hrest⟩ := writeBack_branchExchange_effect hloaded hne
    exact ⟨(absurd rfl ·), fun _ => ⟨hpc, hthumb⟩, hrest⟩
  · obtain ⟨hreg, hbase, hframe, ⟨hcpsr, hstatus⟩, hmem⟩ :=
      writeBack_setX_effect (t := v.wordLoaded s r) (if_neg hrd) hne
    exact ⟨fun _ => ⟨hreg, hcpsr⟩, (absurd · hrd), hbase, hframe, hstatus, hmem⟩

/-- Settles O37: the byte read is written to Rd after the write-back. -/
theorem loadByte : Obligations.LoadByte := by
  unfold Obligations.LoadByte
  intro i v s h hl hb hu hpass hin
  exact ⟨_, exec_ldrb h hu hpass hl hb hin, writeBack_setX_effect rfl (LsView.rn_ne_rd_of_wb hu)⟩

/-- Settles O38: Rd is stored as the access's low bytes, and the write-back follows. -/
theorem storeWordOrByte : Obligations.StoreWordOrByte := by
  unfold Obligations.StoreWordOrByte
  intro i v s h hl hu hpass hm a
  refine ⟨fun hb hin => ?_, fun hb hin => ?_⟩
  · have hstore := store_of_inMemory s .word (wordAligned a) (s.x v.rd) hin
    exact ⟨_, exec_str h hu hpass hl hb hstore, store_writeBack_effect hm hstore rfl⟩
  · have hstore := store_of_inMemory s .byte a (s.x v.rd) hin
    refine ⟨_, exec_strb h hu hpass hl hb hstore, ?_⟩
    obtain ⟨hload, hrest⟩ := store_writeBack_effect hm hstore rfl
    exact ⟨(byteAt_of_load_byte hload).trans (setWidth_byte_zext _), hrest⟩

end Sys2Proof.Machine
end

section
/-! SUPPORT. The halfword, signed and doubleword transfers by their view (R280–R288): every row is the access of its view,
behind the condition and the UNPREDICTABLE conditions; and the accesses that do not lie in memory (R261, R288); then the
proof of O43. -/

namespace Sys2Proof.Machine

/-! ## The rows of mode 3 -/

/-- The UNPREDICTABLE conditions of the instruction in the order in which a row's meaning tests them (R281). -/
def MiscView.rowUnpredictable (v : MiscView) : Bool :=
  match v.offset, v.op with
  | .imm _, .ldrd | .imm _, .strd => unpredictableDouble v.idx v.rn v.rd
  | .imm _, _ => unpredictableMisc v.idx v.rn v.rd
  | .reg rm, .ldrd =>
    unpredictableMiscReg v.idx v.rn rm || unpredictableLdrdReg v.rd rm || unpredictableDouble v.idx v.rn v.rd
  | .reg rm, .strd => unpredictableMiscReg v.idx v.rn rm || unpredictableDouble v.idx v.rn v.rd
  | .reg rm, _ => unpredictableMiscReg v.idx v.rn rm || unpredictableMisc v.idx v.rn v.rd

/-- U14 holds of the index mode (P, W) = (0, 1) alone (R281). -/
theorem beq_postW_eq (i : Index) : (i == .postW) = (!i.p && i.w) := by cases i <;> rfl

/-- The view tests U14 before the offset's conditions, the rows after them. -/
theorem MiscView.unpredictable_eq (v : MiscView) : v.unpredictable = v.rowUnpredictable := by
  rw [MiscView.unpredictable, Bool.or_comm (!v.idx.p && v.idx.w), ← beq_postW_eq, MiscView.rowUnpredictable]
  cases v.offset with
  | imm =>
    cases v.op <;> simp only [unpredictableMisc, unpredictableDouble, Bool.or_assoc] <;> rfl
  | reg rm =>
    cases v.op <;> simp only [unpredictableMiscReg, unpredictableMisc, unpredictableDouble, Bool.or_assoc] <;> rfl

/-- The address is misaligned for the transfer, as the row's meaning tests it (R100). -/
def MiscView.rowMisaligned (v : MiscView) (s : State) : Bool :=
  match v.op with
  | .ldrh | .strh | .ldrsh => bit (v.addrIn s) 0
  | .ldrsb => false
  | .ldrd | .strd => bits (v.addrIn s) 0 3 != 0#3

theorem MiscView.misaligned_eq (v : MiscView) (s : State) : v.misaligned s = v.rowMisaligned s := by
  unfold MiscView.misaligned MiscView.rowMisaligned
  cases v.op with
  | ldrh | strh | ldrsh => exact Bool.or_false _
  | ldrsb | ldrd | strd => rfl

/-- The access of a mode 3 transfer at an aligned address and what follows it (R282–R287). -/
def MiscView.access (v : MiscView) (s : State) : Out :=
  match v.op with
  | .ldrh | .ldrsb | .ldrsh =>
    s.orAbort (s.load v.op.width (v.addrIn s)) fun data =>
      (s.writeBack v.idx v.rn (v.newBaseIn s)).setX v.rd (v.op.extended data)
  | .strh =>
    s.orAbort (s.store .half (v.addrIn s) (s.x v.rd)) fun t => t.writeBack v.idx v.rn (v.newBaseIn s)
  | .ldrd =>
    s.orAbort (s.loadDouble (v.addrIn s)) fun p =>
      ((s.writeBack v.idx v.rn (v.newBaseIn s)).setX v.rd p.1).setX (v.rd + 1#4) p.2
  | .strd =>
    match s.store .word (v.addrIn s) (s.x v.rd) with
    | none => .next s.raiseDataAbort
    | some t =>
      t.orAbort (t.store .word (v.addrIn s + 4#32) (s.x (v.rd + 1#4))) fun t' =>
        t'.writeBack v.idx v.rn (v.newBaseIn s)

/-- Every row of mode 3: behind the condition, the instruction's UNPREDICTABLE conditions and those of the address, the
access of its view (R280–R287). -/
theorem exec_of_miscView {i : Instr} {v : MiscView} (s : State) (h : miscView i = some v) :
    exec i s = s.ifPasses v.cond (s.unlessUnpredictable v.unpredictable
      (s.unlessUnpredictable (v.misaligned s) (v.access s))) := by
  rw [MiscView.unpredictable_eq, MiscView.misaligned_eq]
  cases i <;> cases h <;> rfl

theorem exec_eq_miscAccess {i : Instr} {v : MiscView} {s : State} (h : miscView i = some v)
    (hu : v.unpredictable = false) (ha : v.misaligned s = false) (hpass : condHolds v.cond s.cpsr = true) :
    exec i s = v.access s := by
  rw [exec_of_miscView s h, ifPasses_of_holds _ hpass, hu, unlessUnpredictable_false, ha, unlessUnpredictable_false]

/-! ## The accesses that do not lie in memory (R261, R288) -/

theorem loadDouble_of_outside {s : State} {a : Word}
    (h : s.inMemory .word a = false ∨ s.inMemory .word (a + 4#32) = false) : s.loadDouble a = none := by
  obtain hlo | hhi := h
  · rw [State.loadDouble, load_of_outside _ _ _ hlo]
  · rw [State.loadDouble, load_of_outside _ _ _ hhi]
    cases s.load .word a <;> rfl

theorem LsView.access_of_outside {v : LsView} {s : State}
    (h : (if v.isByte then s.inMemory .byte (v.addrIn s) else s.inMemory .word (wordAligned (v.addrIn s))) = false) :
    v.access s = .next s.raiseDataAbort := by
  unfold LsView.access
  cases hb : v.isByte <;> rw [hb] at h
  · cases v.loads
    · exact congrArg (s.orAbort · _) (store_of_outside _ _ _ _ h)
    · exact congrArg (s.orAbort · _) (loadRotated_of_outside h)
  · cases v.loads
    · exact congrArg (s.orAbort · _) (store_of_outside _ _ _ _ h)
    · exact congrArg (s.orAbort · _) (load_of_outside _ _ _ h)

theorem MiscView.access_of_outside {v : MiscView} {s : State}
    (h : s.inMemory v.op.width (v.addrIn s) = false ∨
      (v.op = .ldrd ∧ s.inMemory .word (v.addrIn s + 4#32) = false)) :
    v.access s = .next s.raiseDataAbort := by
  unfold MiscView.access
  cases hop : v.op <;> rw [hop] at h
  case ldrd => rw [loadDouble_of_outside (h.imp_right And.right), orAbort_none]
  case strd => rw [store_of_outside s .word _ _ (h.resolve_right nofun)]
  case strh => rw [store_of_outside s .half _ _ (h.resolve_right nofun), orAbort_none]
  case ldrh | ldrsb | ldrsh => rw [load_of_outside _ _ _ (h.resolve_right nofun), orAbort_none]

/-- Settles O43: either view's access fails with DataAbort, which is the entry of R422 at `ia`. -/
theorem transferAborts : Obligations.TransferAborts := by
  unfold Obligations.TransferAborts
  refine ⟨fun i v s h hu hpass hout => ?_, fun i v s h hu ha hpass hout => ?_⟩
  · exact ⟨_, (exec_eq_lsAccess h hu hpass).trans (LsView.access_of_outside hout), entered_enter ..⟩
  · exact ⟨_, (exec_eq_miscAccess h hu ha hpass).trans (MiscView.access_of_outside hout), entered_enter ..⟩

end Sys2Proof.Machine
end

section
/-! SUPPORT. The completed transfers of mode 3 (R280–R287): what the access of each operation answers, and what two
registers loaded and two words stored leave; then the proofs of O39, O40, O41 and O42. -/

namespace Sys2Proof.Machine

/-! ## The registers and the address of a transfer that is not UNPREDICTABLE (R281) -/

/-- Without U17 the base written back is not Rd, and for a doubleword not Rd + 1 either. -/
theorem MiscView.rn_ne_rd_of_wb {v : MiscView} (hu : v.unpredictable = false) (hwb : v.wb = true) :
    v.rn ≠ v.rd ∧ (v.op.double = true → v.rn ≠ v.rd + 1#4) := by
  simp only [MiscView.unpredictable, Bool.or_eq_false_iff, hwb, Bool.true_and] at hu
  obtain ⟨-, hregs⟩ := hu
  cases hd : v.op.double <;> rw [hd] at hregs
  case false =>
    simp only [Bool.false_eq_true, if_false, Bool.or_eq_false_iff, beq_eq_false_iff_ne] at hregs
    obtain ⟨-, hne⟩ := hregs
    exact ⟨hne, nofun⟩
  case true =>
    simp only [if_true, Bool.or_eq_false_iff, beq_eq_false_iff_ne] at hregs
    obtain ⟨-, hne, hne'⟩ := hregs
    exact ⟨hne, fun _ => hne'⟩

/-- Without U24 the address of a doubleword is a multiple of 8, so that the second word does not wrap (R100). -/
theorem MiscView.toNat_addrIn_add_four {v : MiscView} {s : State} (hd : v.op.double = true)
    (ha : v.misaligned s = false) : (v.addrIn s + 4#32).toNat = (v.addrIn s).toNat + 4 := by
  simp only [MiscView.misaligned, hd, Bool.or_eq_false_iff, Bool.true_and, bne_eq_false_iff_eq] at ha
  obtain ⟨-, hbits⟩ := ha
  have hmod : (v.addrIn s).toNat % 2 ^ 3 = 0 := by rw [← toNat_bits_zero, hbits]; rfl
  bv_omega

/-! ## The accesses that lie in memory -/

/-- The three loads of one register differ in the width and the extension alone (R282, R284, R285). -/
theorem MiscView.access_of_loadsOne {v : MiscView} (s : State) (hop : v.op = .ldrh ∨ v.op = .ldrsb ∨ v.op = .ldrsh) :
    v.access s = s.orAbort (s.load v.op.width (v.addrIn s)) fun data =>
      (s.writeBack v.idx v.rn (v.newBaseIn s)).setX v.rd (v.op.extended data) := by
  unfold MiscView.access
  obtain h | h | h := hop <;> rw [h]

theorem loadDouble_of_load {s : State} {a lo hi : Word} (hlo : s.load .word a = some lo)
    (hhi : s.load .word (a + 4#32) = some hi) : s.loadDouble a = some (lo, hi) := by
  rw [State.loadDouble, hlo, hhi]
  rfl

section MiscAccesses

variable {i : Instr} {v : MiscView} {s : State} (h : miscView i = some v) (hu : v.unpredictable = false)
  (ha : v.misaligned s = false) (hpass : condHolds v.cond s.cpsr = true)
include h hu ha hpass

theorem exec_loadsOne {data : Word} (hop : v.op = .ldrh ∨ v.op = .ldrsb ∨ v.op = .ldrsh)
    (hload : s.load v.op.width (v.addrIn s) = some data) :
    exec i s = .next ((s.writeBack v.idx v.rn (v.newBaseIn s)).setX v.rd (v.op.extended data)) := by
  rw [exec_eq_miscAccess h hu ha hpass, MiscView.access_of_loadsOne s hop, hload, orAbort_some]

theorem exec_strh {t : State} (hop : v.op = .strh) (hstore : s.store .half (v.addrIn s) (s.x v.rd) = some t) :
    exec i s = .next (t.writeBack v.idx v.rn (v.newBaseIn s)) := by
  simp only [exec_eq_miscAccess h hu ha hpass, MiscView.access, hop, hstore, orAbort_some]

theorem exec_ldrd {lo hi : Word} (hop : v.op = .ldrd) (hlo : s.load .word (v.addrIn s) = some lo)
    (hhi : s.load .word (v.addrIn s + 4#32) = some hi) :
    exec i s = .next (((s.writeBack v.idx v.rn (v.newBaseIn s)).setX v.rd lo).setX (v.rd + 1#4) hi) := by
  simp only [exec_eq_miscAccess h hu ha hpass, MiscView.access, hop, loadDouble_of_load hlo hhi, orAbort_some]

/-- After its first write, STRD is the second one (R287). -/
theorem exec_strd {t : State} (hop : v.op = .strd) (hstore : s.store .word (v.addrIn s) (s.x v.rd) = some t) :
    exec i s = t.orAbort (t.store .word (v.addrIn s + 4#32) (s.x (v.rd + 1#4))) fun t' =>
      t'.writeBack v.idx v.rn (v.newBaseIn s) := by
  simp only [exec_eq_miscAccess h hu ha hpass, MiscView.access, hop, hstore]

end MiscAccesses

/-! ## What LDRD leaves -/

/-- The write-back and then two registers, none of the three the same: these registers and nothing else (R286). -/
theorem writeBack_setX_setX_effect {s t : State} {i : Index} {rn rd rd' : RegNo} {nb x y : Word}
    (ht : t = ((s.writeBack i rn nb).setX rd x).setX rd' y)
    (hne : Index.writesBack i = true → rn ≠ rd ∧ rn ≠ rd') (hrd : rd ≠ rd') :
    t.getCell (slot s.mode rd) = x ∧ t.getCell (slot s.mode rd') = y ∧
    (Index.writesBack i = true → t.getCell (slot s.mode rn) = nb) ∧
    sameCellsBut (slot s.mode rd :: slot s.mode rd' :: if Index.writesBack i then [slot s.mode rn] else []) s t ∧
    sameStatus s t ∧ sameMemory s t := by
  subst ht
  obtain ⟨hfirst, hbase, hframe, hstatus, hmem⟩ := writeBack_setX_effect (nb := nb) (x := x) rfl fun hw => (hne hw).1
  have hcell (d : RegCell) : (((s.writeBack i rn nb).setX rd x).setX rd' y).getCell d =
      if d = slot s.mode rd' then y else ((s.writeBack i rn nb).setX rd x).getCell d := by
    rw [getCell_setX, mode_setX, (quiet_writeBack s i rn nb).mode]
  refine ⟨?_, (hcell _).trans (if_pos rfl), fun hw => ?_, fun d hd => ?_, hstatus, hmem⟩
  · rw [hcell, if_neg (mt (slot_inj ..).1 hrd), hfirst]
  · obtain ⟨-, hne'⟩ := hne hw
    rw [hcell, if_neg (mt (slot_inj ..).1 hne'), hbase hw]
  · simp only [List.mem_cons, not_or] at hd
    obtain ⟨hd, hd', hrest⟩ := hd
    rw [hcell, if_neg hd']
    exact hframe d (List.mem_cons.not.2 (not_or.2 ⟨hd, hrest⟩))

/-! ## What STRD leaves -/

/-- A load reads the bytes of its width and the parameters alone. -/
theorem load_of_same_bytes {s t : State} {w : Width} {a : Word} (hparams : t.params = s.params)
    (h : ∀ c, a.toNat ≤ c → c < a.toNat + w.bytes → t.byteAt c = s.byteAt c) : t.load w a = s.load w a := by
  have hin : t.inMemory w a = s.inMemory w a := by rw [State.inMemory, State.inMemory, hparams]
  rw [State.load, State.load, hin, hparams, Memory.readBytes_congr s.mem t.mem a.toNat w.bytes h]

/-- A store does not move the end of memory (R91). -/
theorem inMemory_of_store {s t : State} {w w' : Width} {a a' x : Word} (h : s.store w a x = some t) :
    t.inMemory w' a' = s.inMemory w' a' := by
  obtain ⟨-, -, -, hparams, -⟩ := store_frame s t w a x h
  rw [State.inMemory, State.inMemory, hparams]

/-- A store is the store with no write-back after it. -/
theorem store_effect {s t : State} {w : Width} {a x : Word} (hm : s.mem.wf = true) (h : s.store w a x = some t) :
    t.load w a = some (w.low x) ∧ sameMemoryBut a w.bytes s t ∧ sameCellsBut [] s t ∧ sameStatus s t := by
  obtain ⟨hload, hmem, -, hcells, hstatus⟩ :=
    store_writeBack_effect (u := t) (i := .offset) (rn := 0#4) (nb := 0#32) hm h rfl
  exact ⟨hload, hmem, hcells, hstatus⟩

/-- Two words stored one after the other and then the write-back: the eight bytes, the base, and nothing else (R287). -/
theorem store_store_writeBack_effect {s t t' u : State} {a x y nb : Word} {i : Index} {rn : RegNo}
    (hm : s.mem.wf = true) (ha : (a + 4#32).toNat = a.toNat + 4) (h : s.store .word a x = some t)
    (h' : t.store .word (a + 4#32) y = some t') (hu : u = t'.writeBack i rn nb) :
    u.load .word a = some x ∧ u.load .word (a + 4#32) = some y ∧ sameMemoryBut a 8 s u ∧
    (Index.writesBack i = true → u.getCell (slot s.mode rn) = nb) ∧
    sameCellsBut (if Index.writesBack i then [slot s.mode rn] else []) s u ∧ sameStatus s u := by
  obtain ⟨hload, hmem, hcells, hcpsr, hspsrs, hparams, hresult⟩ := store_effect hm h
  obtain ⟨hload', hmem', hbase, hcells', hcpsr', hspsrs', hparams', hresult'⟩ :=
    store_writeBack_effect (store_keeps_wf _ _ _ _ _ h hm) h' hu
  rw [mode_congr s t hcpsr] at hbase hcells'
  rw [sameMemoryBut, ha] at hmem'
  refine ⟨?_, hload', fun b hb => ?_, hbase, fun d hd => ?_,
    hcpsr'.trans hcpsr, hspsrs'.trans hspsrs, hparams'.trans hparams, hresult'.trans hresult⟩
  · rw [load_of_same_bytes hparams' fun c _ hc => hmem' c (.inl hc)]
    exact hload
  · have hfirst : b < a.toNat ∨ a.toNat + 4 ≤ b := by omega
    have hsecond : b < a.toNat + 4 ∨ a.toNat + 4 + 4 ≤ b := by omega
    exact (hmem' b hsecond).trans (hmem b hfirst)
  · exact (hcells' d hd).trans (hcells d List.not_mem_nil)

/-! ## The four statements -/

/-- Settles O39: the value read is extended and written to Rd after the write-back. -/
theorem loadHalfOrSigned : Obligations.LoadHalfOrSigned := by
  unfold Obligations.LoadHalfOrSigned
  intro i v s data h hop hu ha hpass hload
  have hne (hwb : v.wb = true) : v.rn ≠ v.rd := (MiscView.rn_ne_rd_of_wb hu hwb).1
  exact ⟨_, exec_loadsOne h hu ha hpass hop hload, writeBack_setX_effect rfl hne⟩

/-- Settles O40: the low halfword of Rd is stored, and the write-back follows. -/
theorem storeHalf : Obligations.StoreHalf := by
  unfold Obligations.StoreHalf
  intro i v s h hop hu ha hpass hm hin
  have hstore := store_of_inMemory s .half (v.addrIn s) (s.x v.rd) hin
  exact ⟨_, exec_strh h hu ha hpass hop hstore, store_writeBack_effect hm hstore rfl⟩

/-- Settles O41: the two words read are written to Rd and Rd + 1 after the write-back. -/
theorem loadDouble : Obligations.LoadDouble := by
  unfold Obligations.LoadDouble
  intro i v s lo hi h hop hu ha hpass hlo hhi
  have hne (hwb : v.wb = true) : v.rn ≠ v.rd ∧ v.rn ≠ v.rd + 1#4 :=
    (MiscView.rn_ne_rd_of_wb hu hwb).imp_right (· (hop ▸ rfl))
  have hrd : v.rd ≠ v.rd + 1#4 := by bv_omega
  exact ⟨_, exec_ldrd h hu ha hpass hop hlo hhi, writeBack_setX_setX_effect rfl hne hrd⟩

/-- Settles O42: the second write, made in the state after the first, is followed by the write-back or fails, and the
entry of R422 is then made in that state. -/
theorem storeDouble : Obligations.StoreDouble := by
  unfold Obligations.StoreDouble
  intro i v s h hop hu ha hpass hm hin
  obtain ⟨t, hstore⟩ : ∃ t, s.store .word (v.addrIn s) (s.x v.rd) = some t := ⟨_, store_of_inMemory _ _ _ _ hin⟩
  have hexec := exec_strd h hu ha hpass hop hstore
  rw [← inMemory_of_store hstore]
  refine ⟨fun hin' => ?_, fun hout => ?_⟩
  · have hstore' := store_of_inMemory t .word (v.addrIn s + 4#32) (s.x (v.rd + 1#4)) hin'
    have ha4 := MiscView.toNat_addrIn_add_four (hop ▸ rfl) ha
    rw [hstore', orAbort_some] at hexec
    exact ⟨_, hexec, store_store_writeBack_effect hm ha4 hstore hstore' rfl⟩
  · obtain ⟨hload, hmem, -, -⟩ := store_effect hm hstore
    obtain ⟨-, rfl⟩ := store_eq_some s t _ _ _ hstore
    rw [store_of_outside _ .word _ _ hout, orAbort_none] at hexec
    exact ⟨_, hexec, hload, hmem, entered_enter ..⟩

end Sys2Proof.Machine
end

section
/-! SUPPORT. The block transfers by their view (R310–R318): every row is the transfer of its view, behind the condition and
the UNPREDICTABLE conditions; then the proof of O50 for every family. -/

namespace Sys2Proof.Machine

/-! ## The rows of mode 4 -/

/-- The UNPREDICTABLE conditions of the form as the row's meaning tests them (R312). -/
def BlockView.rowUnpredictable (v : BlockView) (s : State) : Bool :=
  match v.form with
  | .ldm1 => unpredictableBlock v.rn v.list || unpredictableLdmBase v.w v.rn v.list
  | .ldm2 | .stm2 => unpredictableBlock v.rn v.list || s.inUsrOrSys || v.w
  | .ldm3 => unpredictableBlock v.rn v.list || s.inUsrOrSys || unpredictableLdmBase v.w v.rn v.list
  | .stm1 => unpredictableBlock v.rn v.list || unpredictableStmBase v.w v.rn v.list

/-- The register is at slot 0 where the list holds none below it (R319). -/
theorem slotOf_eq_zero_iff (list : BitVec 16) (r : RegNo) : slotOf list r.toNat = 0 ↔ holdsBelow list r = false := by
  rw [slotOf, List.length_eq_zero_iff, List.filter_eq_nil_iff, holdsBelow, List.any_eq_false]

theorem head?_regsOf_iff {list : BitVec 16} {r : RegNo} (h : list.getLsbD r.toNat = true) :
    (regsOf list).head? = some r ↔ slotOf list r.toNat = 0 := by
  have hslot := regsOf_slotOf list r h
  have hnodup : (regsOf list).Nodup := (regsOf_pairwise list).imp fun hlt heq => hlt.ne (congrArg BitVec.toNat heq)
  obtain ⟨hlt, -⟩ := List.getElem?_eq_some_iff.1 hslot
  rw [List.head?_eq_getElem?]
  exact ⟨fun hhead => (List.getElem?_inj hlt hnodup).1 (hslot.trans hhead.symm), fun h0 => h0 ▸ hslot⟩

/-- U28 (R312): the base is stored, and not first, where the list holds a lower register. -/
theorem unpredictableStmBase_eq (w : Bool) (rn : RegNo) (list : BitVec 16) :
    unpredictableStmBase w rn list = (w && list.getLsbD rn.toNat && holdsBelow list rn) := by
  rw [unpredictableStmBase, inList]
  cases h : list.getLsbD rn.toNat with
  | false => rw [Bool.and_false, Bool.false_and, Bool.false_and]
  | true =>
    have hhead : ((regsOf list).head? != some rn) = holdsBelow list rn := by
      rw [Bool.eq_iff_iff, bne_iff_ne, ne_eq, head?_regsOf_iff h, slotOf_eq_zero_iff, Bool.not_eq_false]
    rw [hhead]

/-- The conditions of the view that the form cannot meet, or that another one implies, drop out. -/
theorem BlockView.unpredictable_eq (v : BlockView) (s : State) : v.unpredictable s = v.rowUnpredictable s := by
  simp only [BlockView.unpredictable, BlockView.rowUnpredictable, unpredictableStmBase_eq, unpredictableBlock,
    unpredictableLdmBase, inList, State.inUsrOrSys]
  rw [Bool.eq_iff_iff]
  cases v.form with
  | ldm1 | ldm3 | stm1 => simp [BlockForm.sBit, BlockForm.loads]
  | ldm2 | stm2 =>
    -- U30 holds wherever U27 or U28 does.
    simp +contextual [BlockForm.sBit, BlockForm.loads]

/-- The state after the loads of LDM(1) and LDM(3), but for R15: the registers of the list and the base (R313, R315). -/
def BlockView.loaded (v : BlockView) (s : State) (vals : List Word) : State :=
  (writeLoaded State.setX s ((regsOf v.list).zip vals)).blockWriteBack v.w v.rn (blockNewBase v.md (s.x v.rn) v.list)

/-- The accesses of a block transfer and what follows them (R313–R317). -/
def BlockView.transfer (v : BlockView) (s : State) : Out :=
  match v.form with
  | .ldm1 =>
    s.orAbort (s.loadBlock v.md v.rn v.list) fun vals =>
      if inList v.list 15#4 then (v.loaded s vals).branchToggle (lastLoaded vals) else v.loaded s vals
  | .ldm2 =>
    s.orAbort (s.loadBlock v.md v.rn v.list) fun vals => writeLoaded State.setXUsr s ((regsOf v.list).zip vals)
  | .ldm3 =>
    match s.loadBlock v.md v.rn v.list, s.spsr? with
    | none, _ => .next s.raiseDataAbort
    | some _, none => .next s
    | some vals, some saved =>
      s.unlessUnpredictable (!legalMode saved)
        (.next (((v.loaded s vals).returnFrom saved (lastLoaded vals)).branchToggle (lastLoaded vals)))
  | .stm1 =>
    s.storeBlock v.md v.rn v.list s.x fun t => t.blockWriteBack v.w v.rn (blockNewBase v.md (s.x v.rn) v.list)
  | .stm2 => s.storeBlock v.md v.rn v.list s.xUsr id

/-- Every row of mode 4: behind the condition and U25–U30, the transfer of its view (R312–R317). -/
theorem exec_of_blockView {i : Instr} {v : BlockView} (s : State) (h : blockView i = some v) :
    exec i s = s.ifPasses v.cond (s.unlessUnpredictable (v.unpredictable s) (v.transfer s)) := by
  rw [BlockView.unpredictable_eq]
  cases i <;> cases h <;> rfl

/-! ## The no-ops of every family -/

/-- An UNPREDICTABLE condition makes a no-op whether the condition code passes or not (R175, R179). -/
theorem ifPasses_unlessUnpredictable_true (s : State) (c : Cond) (k : Out) :
    s.ifPasses c (s.unlessUnpredictable true k) = .next s := ite_self _

/-- Settles O50: the rows of each view stand behind its UNPREDICTABLE conditions. -/
theorem unpredictableNoOps : Obligations.UnpredictableNoOps := by
  unfold Obligations.UnpredictableNoOps
  refine ⟨fun i v s h hu => ?_, fun i v s h hu => ?_, fun i v s h hu => ?_, fun i v s h hu => ?_⟩
  · rw [exec_of_dpView s h, hu, ifPasses_unlessUnpredictable_true]
  · rw [exec_of_lsView s h, hu, ifPasses_unlessUnpredictable_true]
  · rw [exec_of_miscView s h]
    obtain hu | ha := hu
    · rw [hu, ifPasses_unlessUnpredictable_true]
    · rw [ha, unlessUnpredictable_true]
      cases v.unpredictable <;> exact ite_self _
  · rw [exec_of_blockView s h, hu, ifPasses_unlessUnpredictable_true]

end Sys2Proof.Machine
end

section
/-! SUPPORT. The address range of a block transfer and its invariants (R310, R319); then the proof of O44. -/

namespace Sys2Proof.Machine

theorem listBytes_eq (list : BitVec 16) : listBytes list = BitVec.ofNat 32 (4 * popcount list) := by
  rw [listBytes, listCount_eq]

theorem popcount_pos {list : BitVec 16} (h : list ≠ 0#16) : 0 < popcount list := by
  rw [Nat.pos_iff_ne_zero]
  intro h0
  rw [popcount, List.length_eq_zero_iff, List.filter_eq_nil_iff] at h0
  exact h (BitVec.eq_of_getLsbD_eq fun i hi => by simpa using h0 i (List.mem_range.2 hi))

/-- In every variant the last slot ends `4 × popcount` bytes after the first one begins (R310). -/
theorem endAddress_add_four (md : BlockMode) (base : Word) (list : BitVec 16) :
    endAddress md base list + 4#32 = startAddress md base list + listBytes list := by
  cases md with
  | ia => exact BitVec.sub_add_cancel ..
  | ib | da | db => simp only [endAddress, startAddress]; ring

/-- The last slot is the first one plus four bytes for each slot before it (R319). -/
theorem endAddress_eq_startAddress_add (md : BlockMode) (base : Word) {list : BitVec 16} (h : list ≠ 0#16) :
    endAddress md base list = startAddress md base list + 4#32 * BitVec.ofNat 32 (popcount list - 1) := by
  have hbytes : listBytes list = 4#32 * BitVec.ofNat 32 (popcount list - 1) + 4#32 := by
    obtain ⟨n, hn⟩ := Nat.exists_eq_succ_of_ne_zero (popcount_pos h).ne'
    rw [listBytes_eq, hn, Nat.succ_sub_one, Nat.mul_succ, BitVec.ofNat_add, BitVec.ofNat_mul]
  have hend := endAddress_add_four md base list
  rw [hbytes, ← BitVec.add_assoc] at hend
  exact add_right_cancel hend

/-- Settles O44: the range is that of R310 with the list's length as its popcount, and register `i` of the list has as
many registers below it as its position says. -/
theorem blockAddresses : Obligations.BlockAddresses := by
  unfold Obligations.BlockAddresses
  refine ⟨fun base list => ?_, regsOf_slotOf, fun list => ⟨regsOf_pairwise list, fun r => (mem_regsOf list r).1⟩⟩
  rw [← listBytes_eq]
  exact ⟨rfl, rfl, rfl, rfl, rfl, rfl, rfl, rfl, fun md =>
    ⟨rfl, endAddress_eq_startAddress_add md base, blockSlots_eq md base list⟩⟩

end Sys2Proof.Machine
end

section
/-! SUPPORT. What the block transfers share: the UNPREDICTABLE conditions that bear on the base (R312), the base write-back
(R313, R316), the words of the slots with the registers that take them (R311), and what the register writes leave; then
the proofs of O45, O46 and O47. -/

namespace Sys2Proof.Machine

/-! ## A transfer that is not UNPREDICTABLE (R312) -/

section Runs

variable {i : Instr} {v : BlockView} {s : State} (h : blockView i = some v) (hu : v.unpredictable s = false)
include hu

/-- Without U25 the base is not R15. -/
theorem BlockView.rn_ne_pc : v.rn ≠ 15#4 := by
  simp only [BlockView.unpredictable, Bool.or_eq_false_iff, beq_eq_false_iff_ne] at hu
  obtain ⟨⟨⟨⟨⟨hne, -⟩, -⟩, -⟩, -⟩, -⟩ := hu
  exact hne

/-- Without U30 the transfers of the User bank write no base back. -/
theorem BlockView.w_of_userBank (hf : v.form = .ldm2 ∨ v.form = .stm2) : v.w = false := by
  simp only [BlockView.unpredictable, Bool.or_eq_false_iff] at hu
  obtain ⟨⟨⟨-, hw⟩, -⟩, -⟩ := hu
  obtain hf | hf := hf <;> simpa [hf] using hw

/-- Without U27 a base written back is not loaded. -/
theorem BlockView.rn_not_loaded (hf : v.form.loads = true) (hw : v.w = true) : v.list.getLsbD v.rn.toNat = false := by
  simp only [BlockView.unpredictable, Bool.or_eq_false_iff] at hu
  obtain ⟨⟨-, hrn⟩, -⟩ := hu
  simpa [hf, hw] using hrn

include h in
theorem exec_eq_transfer (hpass : condHolds v.cond s.cpsr = true) : exec i s = v.transfer s := by
  rw [exec_of_blockView s h, ifPasses_of_holds _ hpass, hu, unlessUnpredictable_false]

end Runs

/-- The list of LDM(2) does not hold R15, that of LDM(3) does (R312). -/
theorem list_15_of_wf {i : Instr} {v : BlockView} (h : blockView i = some v) (hwf : i.wf = true) :
    (v.form = .ldm2 → v.list.getLsbD 15 = false) ∧ (v.form = .ldm3 → v.list.getLsbD 15 = true) := by
  cases i <;> cases h
  case ldm2 => exact ⟨fun _ => by simpa [Instr.wf] using hwf, nofun⟩
  case ldm3 => exact ⟨nofun, fun _ => hwf⟩
  case ldm1 | stm1 | stm2 => exact ⟨nofun, nofun⟩

/-! ## The base write-back (R313, R316) -/

theorem getCell_blockWriteBack (s : State) (w : Bool) (rn : RegNo) (nb : Word) (d : RegCell) :
    (s.blockWriteBack w rn nb).getCell d = if w = true ∧ d = slot s.mode rn then nb else s.getCell d := by
  cases w with
  | false => rfl
  | true => simp [State.blockWriteBack]

theorem sameStatus_blockWriteBack (s : State) (w : Bool) (rn : RegNo) (nb : Word) :
    sameStatus s (s.blockWriteBack w rn nb) := by
  cases w with
  | false => exact ⟨rfl, rfl, rfl, rfl⟩
  | true => exact sameStatus_setCell ..

theorem sameMemory_blockWriteBack (s : State) (w : Bool) (rn : RegNo) (nb : Word) :
    sameMemory s (s.blockWriteBack w rn nb) := by
  cases w with
  | false => exact ⟨fun _ => rfl, rfl⟩
  | true => exact sameMemory_setCell ..

/-! ## The words of the slots (R311) -/

/-- The words of the slots of a transfer, each read at its slot's address (R310). -/
def BlockView.areSlotWords (v : BlockView) (s : State) (vals : List Word) : Prop :=
  vals.map some = (List.range (popcount v.list)).map fun k => s.load .word (slotAddr v.md (s.x v.rn) v.list k)

theorem BlockView.loadBlock_of_inMemory {v : BlockView} {s : State}
    (hin : s.blockInMemory v.md (s.x v.rn) v.list) :
    ∃ vals, s.loadBlock v.md v.rn v.list = some vals ∧ v.areSlotWords s vals := by
  have haligned := blockSlots_aligned v.md (s.x v.rn) v.list
  obtain ⟨vals, hload, hvals⟩ := loadMany_eq_some s (blockSlots v.md (s.x v.rn) v.list) fun a ha => by
    have hmem := List.mem_map_of_mem (f := wordAligned) ha
    rw [haligned] at hmem
    obtain ⟨k, hk, hslot⟩ := List.mem_map.1 hmem
    exact hslot ▸ hin k (List.mem_range.1 hk)
  refine ⟨vals, hload, ?_⟩
  have hcomp := congrArg (List.map (s.load .word)) haligned
  rw [List.map_map, List.map_map] at hcomp
  exact hvals.symm.trans hcomp

section SlotWords

variable {v : BlockView} {s : State} {vals : List Word} (hvals : v.areSlotWords s vals)
include hvals

theorem length_slotWords : vals.length = popcount v.list := by
  have hlen := congrArg List.length hvals
  simpa only [List.length_map, List.length_range] using hlen

theorem slotWords_getElem? {k : Nat} {d : Word} (hk : k < popcount v.list)
    (hd : s.load .word (slotAddr v.md (s.x v.rn) v.list k) = some d) : vals[k]? = some d := by
  have hget := congrArg (·[k]?) hvals
  simp only [List.getElem?_map, List.getElem?_range hk, Option.map_some, hd, Option.map_eq_some_iff,
    Option.some.injEq, exists_eq_right] at hget
  exact hget

/-- A register of the list stands beside its slot's word (R319). -/
theorem mem_zip_slotWords {r : RegNo} {d : Word} (hr : v.list.getLsbD r.toNat = true)
    (hd : s.load .word (slotAddr v.md (s.x v.rn) v.list (slotOf v.list r.toNat)) = some d) :
    (r, d) ∈ (regsOf v.list).zip vals :=
  List.mem_of_getElem? (List.getElem?_zip_eq_some.2
    ⟨regsOf_slotOf v.list r hr, slotWords_getElem? hvals (slotOf_lt v.list r hr) hd⟩)

/-- R15 is the last register of a list that holds it, and takes the last word loaded (R311, R313). -/
theorem lastLoaded_slotWords {d : Word} (h15 : v.list.getLsbD 15 = true)
    (hd : s.load .word (slotAddr v.md (s.x v.rn) v.list (slotOf v.list 15)) = some d) : lastLoaded vals = d := by
  have hlast : popcount v.list = slotOf v.list 15 + 1 := by
    rw [popcount, List.range_succ (n := 15), List.filter_append, List.length_append, List.filter_cons_of_pos h15]
    rfl
  have hget := slotWords_getElem? hvals (hlast ▸ Nat.lt_succ_self _) hd
  rw [lastLoaded, List.getLastD_eq_getLast?, List.getLast?_eq_getElem?, length_slotWords hvals, hlast,
    Nat.add_sub_cancel, hget, Option.getD_some]

theorem pairwise_zip_slotWords : ((regsOf v.list).zip vals).Pairwise fun p q => p.1 ≠ q.1 := by
  have hlen : (regsOf v.list).length ≤ vals.length := (listCount_eq v.list).trans (length_slotWords hvals).symm |>.le
  rw [← List.pairwise_map (R := (· ≠ ·)), List.map_fst_zip hlen]
  exact (regsOf_pairwise v.list).imp fun hlt heq => hlt.ne (congrArg BitVec.toNat heq)

end SlotWords

/-! ## What the register writes leave -/

/-- Each register of the list but R15 takes its slot's word in the bank of the mode `m` (R313–R315). -/
def BlockView.written (v : BlockView) (m : Mode) (s : State) (vals : List Word) : State :=
  writeLoaded (fun u r x => u.setCell (slot m r) x) s ((regsOf v.list).zip vals)

theorem getCell_written_of_mem {v : BlockView} {m : Mode} {s : State} {vals : List Word} {r : RegNo} {d : Word}
    (hvals : v.areSlotWords s vals) (h15 : r ≠ 15#4) (hr : v.list.getLsbD r.toNat = true)
    (hd : s.load .word (slotAddr v.md (s.x v.rn) v.list (slotOf v.list r.toNat)) = some d) :
    (v.written m s vals).getCell (slot m r) = d :=
  writeLoaded_value m _ s r d h15 (pairwise_zip_slotWords hvals) (mem_zip_slotWords hvals hr hd)

theorem getCell_written_of_not_mem {v : BlockView} {m : Mode} {d : RegCell} (s : State) (vals : List Word)
    (hd : ∀ r : RegNo, v.list.getLsbD r.toNat = true → d ≠ slot m r) :
    (v.written m s vals).getCell d = s.getCell d :=
  writeLoaded_getCell m _ s d fun p hp => .inr (hd p.1 ((mem_regsOf ..).1 (List.of_mem_zip hp).1))

theorem sameStatus_written (v : BlockView) (m : Mode) (s : State) (vals : List Word) :
    sameStatus s (v.written m s vals) := by
  obtain ⟨hcpsr, hspsrs, -, hparams, hresult⟩ := writeLoaded_frame m ((regsOf v.list).zip vals) s
  exact ⟨hcpsr, hspsrs, hparams, hresult⟩

theorem sameMemory_written (v : BlockView) (m : Mode) (s : State) (vals : List Word) :
    sameMemory s (v.written m s vals) := by
  obtain ⟨-, -, hmem, -⟩ := writeLoaded_frame m ((regsOf v.list).zip vals) s
  exact ⟨fun b => congrArg (Memory.read · b) hmem, hmem⟩

/-- After LDM(1) or LDM(3), but for R15, what the register writes leave stands beside the base written back. -/
theorem BlockView.loaded_eq (v : BlockView) (s : State) (vals : List Word) :
    v.loaded s vals = (v.written s.mode s vals).blockWriteBack v.w v.rn (blockNewBase v.md (s.x v.rn) v.list) := by
  rw [BlockView.loaded, writeLoaded_setX]
  rfl

theorem getCell_loaded (v : BlockView) (s : State) (vals : List Word) (d : RegCell) :
    (v.loaded s vals).getCell d =
      if v.w = true ∧ d = slot s.mode v.rn then blockNewBase v.md (s.x v.rn) v.list
      else (v.written s.mode s vals).getCell d := by
  obtain ⟨hcpsr, -⟩ := sameStatus_written v s.mode s vals
  rw [BlockView.loaded_eq, getCell_blockWriteBack, mode_congr s _ hcpsr]

theorem sameStatus_loaded (v : BlockView) (s : State) (vals : List Word) : sameStatus s (v.loaded s vals) := by
  rw [BlockView.loaded_eq]
  obtain ⟨hcpsr, hspsrs, hparams, hresult⟩ := sameStatus_written v s.mode s vals
  obtain ⟨hcpsr', hspsrs', hparams', hresult'⟩ := sameStatus_blockWriteBack (v.written s.mode s vals) v.w v.rn
    (blockNewBase v.md (s.x v.rn) v.list)
  exact ⟨hcpsr'.trans hcpsr, hspsrs'.trans hspsrs, hparams'.trans hparams, hresult'.trans hresult⟩

theorem sameMemory_loaded (v : BlockView) (s : State) (vals : List Word) : sameMemory s (v.loaded s vals) := by
  rw [BlockView.loaded_eq]
  obtain ⟨hbytes, hmem⟩ := sameMemory_written v s.mode s vals
  obtain ⟨hbytes', hmem'⟩ := sameMemory_blockWriteBack (v.written s.mode s vals) v.w v.rn
    (blockNewBase v.md (s.x v.rn) v.list)
  exact ⟨fun b => (hbytes' b).trans (hbytes b), hmem'.trans hmem⟩

/-- The cells of a state that differs from the one after the loads in R15 at most, and only where R15 is in the list
(R313, R315). -/
theorem block_loaded_cells {v : BlockView} {s t : State} {vals : List Word} (hvals : v.areSlotWords s vals)
    (hf : v.form.loads = true) (hu : v.unpredictable s = false)
    (ht : ∀ d, (v.list.getLsbD 15 = true → d ≠ .r15) → t.getCell d = (v.loaded s vals).getCell d) :
    (∀ (r : RegNo) (d : Word), v.list.getLsbD r.toNat = true →
      s.load .word (slotAddr v.md (s.x v.rn) v.list (slotOf v.list r.toNat)) = some d →
      r ≠ 15#4 → t.getCell (slot s.mode r) = d) ∧
    (v.w = true → t.getCell (slot s.mode v.rn) = blockNewBase v.md (s.x v.rn) v.list) ∧
    (∀ d, (∀ r : RegNo, v.list.getLsbD r.toNat = true → d ≠ slot s.mode r) → (v.w = true → d ≠ slot s.mode v.rn) →
      t.getCell d = s.getCell d) := by
  have hne (r : RegNo) (h15 : r ≠ 15#4) : slot s.mode r ≠ .r15 := mt (slot_eq_r15 ..).1 h15
  refine ⟨fun r d hr hd h15 => ?_, fun hw => ?_, fun d hd hdw => ?_⟩
  · have hbase : ¬(v.w = true ∧ slot s.mode r = slot s.mode v.rn) := by
      rintro ⟨hw, hslot⟩
      rw [(slot_inj ..).1 hslot, BlockView.rn_not_loaded hu hf hw] at hr
      cases hr
    rw [ht _ fun _ => hne r h15, getCell_loaded, if_neg hbase, getCell_written_of_mem hvals h15 hr hd]
  · rw [ht _ fun _ => hne v.rn (BlockView.rn_ne_pc hu), getCell_loaded, if_pos ⟨hw, rfl⟩]
  · rw [ht d fun h15 => hd 15#4 h15, getCell_loaded, if_neg (fun hbase => hdw hbase.1 hbase.2),
      getCell_written_of_not_mem s vals hd]

/-- R15 loaded by LDM: the pc and T toggled (R313, R315). -/
theorem branchToggle_effect (s : State) (d : Word) :
    (s.branchToggle d).pc = d &&& 0xFFFFFFFE#32 ∧
    thumbIs s.cpsr (s.branchToggle d).cpsr (thumb s.cpsr != bit d 0) :=
  ⟨pc_setPc .., thumbIs_setThumb ..⟩

/-- The state after LDM(3): the return from the exception, and then R15 as loaded (R315). -/
def BlockView.returned (v : BlockView) (s : State) (saved : Psr) (vals : List Word) : State :=
  ((v.loaded s vals).returnFrom saved (lastLoaded vals)).branchToggle (lastLoaded vals)

theorem getCell_returned (v : BlockView) (s : State) (saved : Psr) (vals : List Word) {d : RegCell} (h : d ≠ .r15) :
    (v.returned s saved vals).getCell d = (v.loaded s vals).getCell d := by
  rw [BlockView.returned, getCell_branchToggle, if_neg h, getCell_returnFrom, if_neg h]

/-! ## The three statements -/

/-- Settles O45: the loads and the write-back, then the branch where R15 is in the list. -/
theorem loadMultiple : Obligations.LoadMultiple := by
  unfold Obligations.LoadMultiple
  intro i v s h hf hu hpass hin
  have hl : v.form.loads = true := hf ▸ rfl
  obtain ⟨vals, hload, hvals⟩ := BlockView.loadBlock_of_inMemory hin
  obtain ⟨hcpsr, hstatus⟩ := sameStatus_loaded v s vals
  have hexec : exec i s = .next (if v.list.getLsbD 15 then (v.loaded s vals).branchToggle (lastLoaded vals)
      else v.loaded s vals) := by
    simp only [exec_eq_transfer h hu hpass, BlockView.transfer, hf, hload, orAbort_some]
    rfl
  cases h15 : v.list.getLsbD 15 with
  | false =>
    rw [h15] at hexec
    obtain ⟨hregs, hbase, hframe⟩ := block_loaded_cells (t := v.loaded s vals) hvals hl hu fun _ _ => rfl
    refine ⟨_, hexec, fun r d hr hd => ⟨hregs r d hr hd, ?_⟩, fun _ => hcpsr, hbase, hframe, hstatus,
      sameMemory_loaded v s vals⟩
    rintro rfl
    exact absurd (h15.symm.trans hr) nofun
  | true =>
    rw [h15] at hexec
    obtain ⟨hregs, hbase, hframe⟩ := block_loaded_cells (t := (v.loaded s vals).branchToggle (lastLoaded vals)) hvals hl
      hu fun d hd => (getCell_branchToggle ..).trans (if_neg (hd h15))
    refine ⟨_, hexec, fun r d hr hd => ⟨hregs r d hr hd, ?_⟩, nofun, hbase, hframe, hstatus,
      sameMemory_loaded v s vals⟩
    rintro rfl
    rw [← lastLoaded_slotWords hvals h15 hd, ← hcpsr]
    exact branchToggle_effect ..

/-- Settles O46: the list has no R15, so that every register of it is written in the User bank. -/
theorem loadMultipleUser : Obligations.LoadMultipleUser := by
  unfold Obligations.LoadMultipleUser
  intro i v s h hwf hf hu hpass hin
  obtain ⟨vals, hload, hvals⟩ := BlockView.loadBlock_of_inMemory hin
  have hexec : exec i s = .next (v.written .usr s vals) := by
    simp only [exec_eq_transfer h hu hpass, BlockView.transfer, hf, hload, orAbort_some]
    rfl
  refine ⟨_, hexec, fun r d hr hd => getCell_written_of_mem hvals ?_ hr hd,
    fun d hd => getCell_written_of_not_mem s vals hd, sameStatus_written .., sameMemory_written ..⟩
  rintro rfl
  exact absurd (((list_15_of_wf h hwf).1 hf).symm.trans hr) nofun

/-- Settles O47: the loads and the write-back in the mode before the restore, then the return and the branch; U31 is
tested after the loads. -/
theorem loadMultipleReturn : Obligations.LoadMultipleReturn := by
  unfold Obligations.LoadMultipleReturn
  intro i v s saved h hwf hf hu hpass hin hsaved
  have hl : v.form.loads = true := hf ▸ rfl
  have h15 := (list_15_of_wf h hwf).2 hf
  obtain ⟨vals, hload, hvals⟩ := BlockView.loadBlock_of_inMemory hin
  have hexec : exec i s = s.unlessUnpredictable (!legalMode saved) (.next (v.returned s saved vals)) := by
    simp only [exec_eq_transfer h hu hpass, BlockView.transfer, hf, hload, hsaved]
    rfl
  refine ⟨fun hillegal => ?_, fun hlegal => ?_⟩
  · rwa [hillegal] at hexec
  · rw [hlegal] at hexec
    obtain ⟨-, hstatus⟩ := sameStatus_loaded v s vals
    obtain ⟨hregs, hbase, hframe⟩ := block_loaded_cells (t := v.returned s saved vals) hvals hl hu fun d hd =>
      getCell_returned v s saved vals (hd h15)
    refine ⟨_, hexec, fun r d hr hd => ⟨hregs r d hr hd, ?_⟩, hbase, hframe, hstatus, sameMemory_loaded v s vals⟩
    rintro rfl
    rw [← lastLoaded_slotWords hvals h15 hd]
    exact branchToggle_effect ((v.loaded s vals).returnFrom saved (lastLoaded vals)) (lastLoaded vals)

end Sys2Proof.Machine
end

section
/-! SUPPORT. The writes of a block store, slot by slot (R311, R316, R317), what the first of them leave, and the transfers
with a slot outside memory (R318, R112); then the proofs of O48 and O49. -/

namespace Sys2Proof.Machine

/-! ## The writes of a block store -/

/-- The word that a block store stores for a register: from the current bank, or from the User bank (R316, R317). -/
def BlockView.stored (v : BlockView) (s : State) (r : RegNo) : Word := if v.form = .stm1 then s.x r else s.xUsr r

/-- The writes of a block store in their order: each register of the list at its slot (R311). -/
def BlockView.writes (v : BlockView) (s : State) : List (Word × Word) :=
  (blockSlots v.md (s.x v.rn) v.list).zip ((regsOf v.list).map (v.stored s))

theorem length_writes (v : BlockView) (s : State) : (v.writes s).length = popcount v.list := by
  have hregs : (regsOf v.list).length = popcount v.list := listCount_eq v.list
  rw [BlockView.writes, List.length_zip, List.length_map, hregs, blockSlots_eq, List.length_map, List.length_range,
    Nat.min_self]

/-- Write `k` is made at slot `k`. -/
theorem wordAligned_writes {v : BlockView} {s : State} {k : Nat} {p : Word × Word} (h : (v.writes s)[k]? = some p) :
    wordAligned p.1 = slotAddr v.md (s.x v.rn) v.list k := by
  obtain ⟨hslot, -⟩ := List.getElem?_zip_eq_some.1 h
  obtain ⟨hk, -⟩ := List.getElem?_eq_some_iff.1 h
  rw [length_writes] at hk
  rw [blockSlots_eq, List.getElem?_map, List.getElem?_range hk, Option.map_some, Option.some_inj] at hslot
  exact congrArg wordAligned hslot.symm

/-- The first `n` writes are those of the slots below `n`. -/
theorem wordAligned_of_mem_take {v : BlockView} {s : State} {n : Nat} {p : Word × Word}
    (h : p ∈ (v.writes s).take n) : ∃ k, k < n ∧ wordAligned p.1 = slotAddr v.md (s.x v.rn) v.list k := by
  obtain ⟨k, hk, rfl⟩ := List.mem_take_iff_getElem.1 h
  exact ⟨k, by omega, wordAligned_writes (List.getElem?_eq_getElem _)⟩

/-- A register whose slot is below `n` is stored by one of the first `n` writes (R319). -/
theorem exists_mem_take_writes {v : BlockView} (s : State) {n : Nat} {r : RegNo} (hr : v.list.getLsbD r.toNat = true)
    (hn : slotOf v.list r.toNat < n) :
    ∃ a, (a, v.stored s r) ∈ (v.writes s).take n ∧
      wordAligned a = slotAddr v.md (s.x v.rn) v.list (slotOf v.list r.toNat) := by
  have hk := slotOf_lt v.list r hr
  have hget : (v.writes s)[slotOf v.list r.toNat]? =
      some (startAddress v.md (s.x v.rn) v.list + BitVec.ofNat 32 (4 * slotOf v.list r.toNat), v.stored s r) := by
    refine List.getElem?_zip_eq_some.2 ⟨?_, ?_⟩
    · rw [blockSlots_eq, List.getElem?_map, List.getElem?_range hk, Option.map_some]
    · rw [List.getElem?_map, regsOf_slotOf v.list r hr, Option.map_some]
  exact ⟨_, List.mem_of_getElem? ((List.getElem?_take_of_lt hn).trans hget), rfl⟩

theorem pairwise_writes (v : BlockView) (s : State) :
    (v.writes s).Pairwise fun p q => (wordAligned p.1).toNat + 4 ≤ (wordAligned q.1).toNat ∨
      (wordAligned q.1).toNat + 4 ≤ (wordAligned p.1).toNat := by
  refine List.pairwise_iff_getElem.2 fun j k hj hk hjk => ?_
  rw [wordAligned_writes (List.getElem?_eq_getElem hj), wordAligned_writes (List.getElem?_eq_getElem hk)]
  rw [length_writes] at hj hk
  exact slotAddr_disjoint v.md (s.x v.rn) v.list j k hj hk hjk.ne

/-! ## What the first writes leave -/

/-- The state after the first `n` writes of a block store that all lie in memory. -/
def BlockView.afterStores (v : BlockView) (s : State) (n : Nat) : State := (s.storeMany ((v.writes s).take n)).1

/-- A run of word writes changes memory alone. -/
theorem afterStores_eq (v : BlockView) (s : State) (n : Nat) :
    v.afterStores s n = { s with mem := (v.afterStores s n).mem } := by
  obtain ⟨hregs, hcpsr, hspsrs, hparams, hresult⟩ := storeMany_frame ((v.writes s).take n) s
  rw [BlockView.afterStores, ← hregs, ← hcpsr, ← hspsrs, ← hparams, ← hresult]

section FirstStores

variable {v : BlockView} {s : State} {n : Nat} (hm : s.mem.wf = true)
include hm

/-- A byte outside the slots below `n` is kept by their writes. -/
theorem byteAt_afterStores {b : Nat}
    (hb : ∀ k, k < n → b < (slotAddr v.md (s.x v.rn) v.list k).toNat ∨
      (slotAddr v.md (s.x v.rn) v.list k).toNat + 4 ≤ b) :
    (v.afterStores s n).byteAt b = s.byteAt b := by
  refine storeMany_byteAt _ s hm b fun p hp => ?_
  obtain ⟨k, hk, hslot⟩ := wordAligned_of_mem_take hp
  exact hslot ▸ hb k hk

variable (hin : ∀ k, k < n → s.inMemory .word (slotAddr v.md (s.x v.rn) v.list k) = true)
include hin

/-- Where the slots below `n` lie in memory, their writes go through and are read back. -/
theorem storeMany_take_writes :
    (s.storeMany ((v.writes s).take n)).2 = true ∧
    ∀ p, p ∈ (v.writes s).take n → (v.afterStores s n).load .word (wordAligned p.1) = some p.2 := by
  refine storeMany_all _ s hm (fun p hp => ?_) (pairwise_writes v s).take
  obtain ⟨k, hk, hslot⟩ := wordAligned_of_mem_take hp
  exact hslot ▸ hin k hk

theorem load_afterStores {r : RegNo} (hr : v.list.getLsbD r.toNat = true) (hn : slotOf v.list r.toNat < n) :
    (v.afterStores s n).load .word (slotAddr v.md (s.x v.rn) v.list (slotOf v.list r.toNat)) =
      some (v.stored s r) := by
  obtain ⟨-, hload⟩ := storeMany_take_writes hm hin
  obtain ⟨a, ha, hslot⟩ := exists_mem_take_writes s hr hn
  exact hslot ▸ hload _ ha

/-- Where slot `n` is the first outside memory, the run of writes ends before it (R112). -/
theorem storeMany_writes_of_outside (hn : n < popcount v.list)
    (hout : s.inMemory .word (slotAddr v.md (s.x v.rn) v.list n) = false) :
    s.storeMany (v.writes s) = (v.afterStores s n, false) := by
  obtain ⟨hfirst, -⟩ := storeMany_take_writes hm hin
  have hlen : n < (v.writes s).length := hn.trans_eq (length_writes v s).symm
  rw [← wordAligned_writes (List.getElem?_eq_getElem hlen)] at hout
  have hstop := storeMany_stops _ ((v.writes s).drop (n + 1)) _ s hfirst hout
  rwa [← List.drop_eq_getElem_cons hlen, List.take_append_drop] at hstop

end FirstStores

/-- Where every slot lies in memory, all the writes are made. -/
theorem storeMany_writes {v : BlockView} {s : State} (hm : s.mem.wf = true)
    (hin : s.blockInMemory v.md (s.x v.rn) v.list) :
    s.storeMany (v.writes s) = (v.afterStores s (popcount v.list), true) := by
  obtain ⟨hall, -⟩ := storeMany_take_writes hm hin
  have htake : (v.writes s).take (popcount v.list) = v.writes s := List.take_of_length_le (length_writes v s).le
  rw [htake] at hall
  rw [BlockView.afterStores, htake, ← hall]

/-- The write-back after the writes: memory is theirs, and of the rest the base alone changes (R316). -/
theorem afterStores_blockWriteBack_effect (v : BlockView) (s : State) (n : Nat) (w : Bool) (rn : RegNo) (nb : Word) :
    (∀ a, ((v.afterStores s n).blockWriteBack w rn nb).load .word a = (v.afterStores s n).load .word a) ∧
    (∀ b, ((v.afterStores s n).blockWriteBack w rn nb).byteAt b = (v.afterStores s n).byteAt b) ∧
    (w = true → ((v.afterStores s n).blockWriteBack w rn nb).getCell (slot s.mode rn) = nb) ∧
    sameCellsBut (if w then [slot s.mode rn] else []) s ((v.afterStores s n).blockWriteBack w rn nb) ∧
    sameStatus s ((v.afterStores s n).blockWriteBack w rn nb) := by
  obtain ⟨-, -, hparams, -⟩ := sameStatus_blockWriteBack (v.afterStores s n) w rn nb
  obtain ⟨hbytes, hmem⟩ := sameMemory_blockWriteBack (v.afterStores s n) w rn nb
  refine ⟨load_congr hmem hparams .word, hbytes, ?_⟩
  rw [afterStores_eq]
  cases w with
  | false => exact ⟨nofun, fun _ _ => rfl, rfl, rfl, rfl, rfl⟩
  | true => exact ⟨fun _ => getCell_setCell_self .., sameCellsBut_setCell _ _ _, sameStatus_setCell ..⟩

/-! ## The transfer of a block store -/

/-- STM(2) writes no base back, so that both stores are the writes and then the write-back (R316, R317). -/
theorem BlockView.transfer_of_stores {v : BlockView} {s : State} (hf : v.form.loads = false)
    (hu : v.unpredictable s = false) :
    v.transfer s = s.storeBlock v.md v.rn v.list (v.stored s) fun t =>
      t.blockWriteBack v.w v.rn (blockNewBase v.md (s.x v.rn) v.list) := by
  unfold BlockView.transfer BlockView.stored
  cases hform : v.form with
  | ldm1 | ldm2 | ldm3 => rw [hform] at hf; cases hf
  | stm1 => rfl
  | stm2 => rw [BlockView.w_of_userBank hu (.inr hform)]; rfl

theorem storeBlock_of_writes {v : BlockView} {s t : State} {b : Bool} (k : State → State)
    (h : s.storeMany (v.writes s) = (t, b)) :
    s.storeBlock v.md v.rn v.list (v.stored s) k = .next (if b then k t else t.raiseDataAbort) := by
  rw [BlockView.writes] at h
  rw [State.storeBlock, h]
  cases b <;> rfl

/-! ## The transfers with a slot outside memory (R318) -/

theorem loadBlock_of_outside {v : BlockView} {s : State} {k : Nat} (hk : k < popcount v.list)
    (hout : s.inMemory .word (slotAddr v.md (s.x v.rn) v.list k) = false) : s.loadBlock v.md v.rn v.list = none := by
  refine loadMany_eq_none s _ _ ?_ hout
  rw [blockSlots_eq]
  exact List.mem_map_of_mem (List.mem_range.2 hk)

theorem BlockView.transfer_of_loadBlock_none {v : BlockView} {s : State} (hf : v.form.loads = true)
    (h : s.loadBlock v.md v.rn v.list = none) : v.transfer s = .next s.raiseDataAbort := by
  unfold BlockView.transfer
  rw [h]
  cases hform : v.form with
  | ldm1 | ldm2 | ldm3 => rfl
  | stm1 | stm2 => rw [hform] at hf; cases hf

/-! ## The two statements -/

/-- Settles O48: all the writes are made, and the write-back follows. -/
theorem storeMultiple : Obligations.StoreMultiple := by
  unfold Obligations.StoreMultiple
  intro i v s h hf hu hpass hm hin
  have hexec : exec i s = .next ((v.afterStores s (popcount v.list)).blockWriteBack v.w v.rn
      (blockNewBase v.md (s.x v.rn) v.list)) := by
    rw [exec_eq_transfer h hu hpass, BlockView.transfer_of_stores hf hu, storeBlock_of_writes _ (storeMany_writes hm hin)]
    rfl
  obtain ⟨hload, hbyte, hbase, hcells, hstatus⟩ := afterStores_blockWriteBack_effect v s (popcount v.list) v.w v.rn
    (blockNewBase v.md (s.x v.rn) v.list)
  refine ⟨_, hexec, fun r hr => ?_, fun b hb => ?_, hbase, hcells, hstatus⟩
  · exact (hload _).trans (load_afterStores hm hin hr (slotOf_lt v.list r hr))
  · exact (hbyte b).trans (byteAt_afterStores hm hb)

/-- Settles O49: a load answers none before any write, and a store ends with the writes of the slots before `k`; the
entry of R422 is then made at `ia`. -/
theorem blockAborts : Obligations.BlockAborts := by
  unfold Obligations.BlockAborts
  intro i v s k h hu hpass hm hk hin hout
  cases hf : v.form.loads with
  | true =>
    have hexec := (exec_eq_transfer h hu hpass).trans
      (BlockView.transfer_of_loadBlock_none hf (loadBlock_of_outside hk hout))
    exact ⟨_, hexec, entered_enter .., fun _ => ⟨fun _ => rfl, rfl⟩, nofun⟩
  | false =>
    have hexec : exec i s = .next (v.afterStores s k).raiseDataAbort := by
      rw [exec_eq_transfer h hu hpass, BlockView.transfer_of_stores hf hu,
        storeBlock_of_writes _ (storeMany_writes_of_outside hm hin hk hout)]
      rfl
    refine ⟨_, hexec, ?_, nofun, fun _ => ⟨fun r hr hslot => ?_, fun b hb => byteAt_afterStores hm hb⟩⟩
    · have hentered := entered_enter .dataAbort s.ia (v.afterStores s k)
      rw [afterStores_eq] at hentered ⊢
      exact hentered
    · exact load_afterStores hm hin hr hslot

end Sys2Proof.Machine
end

section
/-! SUPPORT. The branch target in plain arithmetic and the two cells that BL writes (R340, R341); then the proof of
O51. -/

namespace Sys2Proof.Machine

/-- A left shift by two of the sign-extended offset is the offset times 4 (R137). -/
theorem branchOffset_eq_ofInt (imm : BitVec 24) : branchOffset imm = BitVec.ofInt 32 (4 * imm.toInt) := by
  rw [branchOffset, BitVec.shiftLeft_eq_mul_twoPow, BitVec.mul_comm, BitVec.ofInt_mul]
  rfl

/-- The target is the sum of R340 modulo 2^32. -/
theorem branchTarget_eq_ofInt (s : State) (imm : BitVec 24) :
    s.branchTarget imm = BitVec.ofInt 32 ((s.ia.toNat : Int) + 8 + 4 * imm.toInt) := by
  rw [State.branchTarget, branchOffset_eq_ofInt, BitVec.ofInt_add, BitVec.ofInt_add, BitVec.ofInt_natCast,
    BitVec.ofNat_toNat, BitVec.setWidth_eq]
  rfl

/-- BL writes the link register and then the pc, which are two cells (R341). -/
theorem setX_setPc_effect (s : State) (link target : Word) :
    ((s.setX 14#4 link).setPc target).getCell (slot s.mode 14#4) = link ∧
    sameCellsBut [.r15, slot s.mode 14#4] s ((s.setX 14#4 link).setPc target) := by
  refine ⟨?_, fun d hd => ?_⟩
  · rw [getCell_setPc, if_neg (lr_ne_pc s.mode), getCell_setX, if_pos rfl]
  · obtain ⟨hpc, hlr⟩ : d ≠ .r15 ∧ d ≠ slot s.mode 14#4 := by simpa using hd
    rw [getCell_setPc, if_neg hpc, getCell_setX, if_neg hlr]

/-- Settles O51: either branch writes its target to the pc, BL after its link register. -/
theorem branches : Obligations.Branches := by
  unfold Obligations.Branches
  intro c imm s hpass target
  have htarget : s.branchTarget imm = target := branchTarget_eq_ofInt s imm
  refine ⟨⟨s.setPc target, ?_, pc_setPc .., sameCellsBut_setCell _ _ _, sameStatus_setCell .., sameMemory_setCell ..⟩,
    ⟨(s.setX 14#4 (s.ia + 4#32)).setPc target, ?_, pc_setPc .., ?_⟩⟩
  · exact htarget ▸ ifPasses_of_holds _ hpass
  · exact htarget ▸ ifPasses_of_holds _ hpass
  · obtain ⟨hlink, hframe⟩ := setX_setPc_effect s (s.ia + 4#32) target
    exact ⟨hlink, hframe, ⟨rfl, rfl, rfl, rfl⟩, fun _ => rfl, rfl⟩

end Sys2Proof.Machine
end

section
/-! SUPPORT. The status transfers: MRS (R342); MSR by its view (R343–R348), every row the masked write of its view behind
the condition and U5, and which bits the field mask and the mode select; with the proofs of O52, O53 and O54. -/

namespace Sys2Proof.Machine

/-! ## MRS (R342) -/

/-- In a legal mode a register write changes the cell that the mode's bank gives it, and nothing else (R44). -/
theorem setX_effect {s : State} {m : Mode} (h : s.mode? = some m) (i : RegNo) (v : Word) :
    (s.setX i v).getCell (slot m i) = v ∧ sameCellsBut [slot m i] s (s.setX i v) ∧ sameStatus s (s.setX i v) ∧
    sameMemory s (s.setX i v) := by
  rw [setX_eq_setCell h]
  exact ⟨getCell_setCell_self .., sameCellsBut_setCell _ _ _, sameStatus_setCell .., sameMemory_setCell ..⟩

/-- USR and SYS have no SPSR (R50). -/
theorem spsr?_of_usr_or_sys {s : State} {m : Mode} (h : s.mode? = some m) (hno : m = .usr ∨ m = .sys) :
    s.spsr? = none :=
  (spsr?_of_mode? h).trans ((SpsrBank.get?_eq_none_iff ..).2 hno)

section Mrs

variable {c : Cond} {rd : RegNo} {s : State} (hpass : condHolds c s.cpsr = true)
include hpass

theorem exec_mrsCpsr (hrd : rd ≠ 15#4) : exec (.mrsCpsr c rd) s = .next (s.setX rd s.cpsr) := by
  refine (ifPasses_of_holds _ hpass).trans ?_
  rw [beq_false_of_ne hrd, unlessUnpredictable_false]

theorem exec_mrsSpsr {p : Psr} (hrd : rd ≠ 15#4) (hp : s.spsr? = some p) :
    exec (.mrsSpsr c rd) s = .next (s.setX rd p) := by
  refine (ifPasses_of_holds _ hpass).trans ?_
  rw [beq_false_of_ne hrd, unlessUnpredictable_false, hp]

/-- U4, whatever Rd (R342). -/
theorem exec_mrsSpsr_of_none (hno : s.spsr? = none) : exec (.mrsSpsr c rd) s = .next s := by
  refine (ifPasses_of_holds _ hpass).trans ?_
  rw [hno]
  exact ite_self _

end Mrs

/-- Settles O52: MRS is a register write of the status register read, behind U3 and U4. -/
theorem statusToRegister : Obligations.StatusToRegister := by
  unfold Obligations.StatusToRegister
  intro c rd s m hm hpass
  refine ⟨fun hrd => ?_, fun p hrd hp => ?_, fun hrd => ?_, fun hno => ?_⟩
  · exact ⟨_, exec_mrsCpsr hpass hrd, setX_effect hm rd s.cpsr⟩
  · exact ⟨_, exec_mrsSpsr hpass hrd ((spsr?_of_mode? hm).trans hp), setX_effect hm rd p⟩
  · subst hrd
    exact ⟨ifPasses_of_holds _ hpass, ifPasses_of_holds _ hpass⟩
  · exact exec_mrsSpsr_of_none hpass (spsr?_of_usr_or_sys hm hno)

/-! ## The bits selected (R343, R344) -/

@[simp] theorem bit_and (v w : Word) (i : Nat) : bit (v &&& w) i = (bit v i && bit w i) := BitVec.getLsbD_and ..

/-- Each bit of the field mask selects one byte (R343). -/
theorem bit_byteMask {j : Nat} (m : BitVec 4) (h : j < 32) : bit (byteMask m) j = m.getLsbD (j / 8) := by
  have hbytes : ∀ m : BitVec 4, ∀ j, j < 32 → bit (byteMask m) j = m.getLsbD (j / 8) := by decide
  exact hbytes m j h

/-- USR writes the flags only (R344, R345). -/
theorem bit_cpsrWritable_usr {j : Nat} (h : j < 32) : bit (cpsrWritable .usr) j = true ↔ 28 ≤ j := by
  have hbits : ∀ j, j < 32 → (bit userMask j = true ↔ 28 ≤ j) := by decide
  exact hbits j h

/-- A privileged mode writes I, F and M too, and not T (R344, R345). -/
theorem bit_cpsrWritable_of_privileged {j : Nat} {m : Mode} (hm : m ≠ .usr) (h : j < 32) :
    bit (cpsrWritable m) j = true ↔ 28 ≤ j ∨ (j < 8 ∧ j ≠ 5) := by
  have hbits : ∀ j, j < 32 → (bit (userMask ||| privMask) j = true ↔ 28 ≤ j ∨ (j < 8 ∧ j ≠ 5)) := by decide
  rw [cpsrWritable, Mode.privileged, bne_iff_ne.2 hm, if_pos rfl]
  exact hbits j h

/-- The SPSR may receive T too (R346). -/
theorem bit_spsrWritable {j : Nat} (h : j < 32) :
    bit (userMask ||| privMask ||| stateMask) j = true ↔ 28 ≤ j ∨ j < 8 := by
  have hbits : ∀ j, j < 32 → (bit (userMask ||| privMask ||| stateMask) j = true ↔ 28 ≤ j ∨ j < 8) := by decide
  exact hbits j h

/-- For the bits of one byte, the field mask is one of its four bits. -/
theorem mask_and_iff {j : Nat} {P : Prop} (m : BitVec 4) (k : Nat) (hbyte : P → j / 8 = k) :
    m.getLsbD (j / 8) = true ∧ P ↔ P ∧ m.getLsbD k = true := by
  rw [and_comm]
  exact and_congr_right fun hp => by rw [hbyte hp]

/-- A masked write takes the writable bits of the selected bytes from the operand (R343). -/
theorem bit_maskedWrite_byteMask {j : Nat} {m : BitVec 4} {writable : Word} {P : Prop} [Decidable P]
    (h : j < 32 → (m.getLsbD (j / 8) = true ∧ bit writable j = true ↔ P)) (target o : Word) :
    bit (maskedWrite target o (byteMask m &&& writable)) j = if P then bit o j else bit target j := by
  by_cases hj : j < 32
  · have hmask : bit (byteMask m &&& writable) j = true ↔ P := by
      rw [bit_and, bit_byteMask m hj, Bool.and_eq_true, h hj]
    rw [bit_maskedWrite, if_congr hmask rfl rfl]
  · rw [bit_ge _ j (by omega), bit_ge o j (by omega), bit_ge target j (by omega), ite_self]

section Written

variable (mask : BitVec 4) (target o : Word) (j : Nat)

theorem bit_msrCpsr_usr : bit (maskedWrite target o (byteMask mask &&& cpsrWritable .usr)) j =
    if 28 ≤ j ∧ mask.getLsbD 3 = true then bit o j else bit target j := by
  refine bit_maskedWrite_byteMask (fun hj => ?_) target o
  rw [bit_cpsrWritable_usr hj, mask_and_iff mask 3 (by omega)]

theorem bit_msrCpsr_of_privileged {m : Mode} (hm : m ≠ .usr) :
    bit (maskedWrite target o (byteMask mask &&& cpsrWritable m)) j =
      if (28 ≤ j ∧ mask.getLsbD 3 = true) ∨ (j < 8 ∧ j ≠ 5 ∧ mask.getLsbD 0 = true) then bit o j else bit target j := by
  refine bit_maskedWrite_byteMask (fun hj => ?_) target o
  rw [bit_cpsrWritable_of_privileged hm hj, and_or_left, mask_and_iff mask 3 (by omega), mask_and_iff mask 0 (by omega),
    and_assoc]

theorem bit_msrSpsr : bit (maskedWrite target o (byteMask mask &&& (userMask ||| privMask ||| stateMask))) j =
    if (28 ≤ j ∧ mask.getLsbD 3 = true) ∨ (j < 8 ∧ mask.getLsbD 0 = true) then bit o j else bit target j := by
  refine bit_maskedWrite_byteMask (fun hj => ?_) target o
  rw [bit_spsrWritable hj, and_or_left, mask_and_iff mask 3 (by omega), mask_and_iff mask 0 (by omega)]

end Written

/-! ## The rows -/

/-- The write of an MSR once its operand is known (R345, R346). -/
def MsrView.transfer (v : MsrView) (s : State) : Out :=
  if v.toSpsr then msrSpsr s v.mask (v.operandIn s) else msrCpsr s v.mask (v.operandIn s)

/-- Every MSR row: behind the condition and U5, the write of its view (R343, R348). -/
theorem exec_of_msrView {i : Instr} {v : MsrView} (s : State) (h : msrView i = some v) :
    exec i s = s.ifPasses v.cond (s.unlessUnpredictable v.readsPc (v.transfer s)) := by
  cases i <;> cases h <;> rfl

/-- U5 (R348). -/
theorem exec_msr_of_readsPc {i : Instr} {v : MsrView} (s : State) (h : msrView i = some v) (hpc : v.readsPc = true) :
    exec i s = .next s := by
  rw [exec_of_msrView s h, hpc, ifPasses_unlessUnpredictable_true]

theorem exec_eq_msrTransfer {i : Instr} {v : MsrView} {s : State} (h : msrView i = some v)
    (hpass : condHolds v.cond s.cpsr = true) (hpc : v.readsPc = false) : exec i s = v.transfer s := by
  rw [exec_of_msrView s h, ifPasses_of_holds _ hpass, hpc, unlessUnpredictable_false]

/-! ## The write of the CPSR (R345) -/

section ToCpsr

variable {s : State} {mask : BitVec 4} {o : Word}

/-- U7 and U8 are of the privileged modes, with the control byte selected (R345). -/
theorem unpredictableMsr_iff {m : Mode} (hm : s.mode? = some m) : s.unpredictableMsr mask o = true ↔
    m ≠ .usr ∧ mask.getLsbD 0 = true ∧ (bit o 5 = true ∨ legalMode o = false) := by
  simp [State.unpredictableMsr, mode_of_mode? hm, Mode.privileged, thumb, and_assoc]

theorem msrCpsr_of_unpredictable (hu : s.unpredictableMsr mask o = true) : msrCpsr s mask o = .next s := if_pos hu

theorem msrCpsr_of_predictable {m : Mode} (hm : s.mode? = some m) (hu : ¬s.unpredictableMsr mask o = true) :
    msrCpsr s mask o = .next (s.setCpsr (maskedWrite s.cpsr o (byteMask mask &&& cpsrWritable m))) := by
  rw [msrCpsr, mode_of_mode? hm]
  exact if_neg hu

end ToCpsr

theorem setCpsr_frame (s : State) (p : Psr) :
    sameCellsBut [] s (s.setCpsr p) ∧ sameStatusButCpsr s (s.setCpsr p) ∧ sameMemory s (s.setCpsr p) :=
  ⟨fun _ _ => getCell_setCpsr .., ⟨rfl, rfl, rfl⟩, fun _ => rfl, rfl⟩

/-- Settles O53: the write of the CPSR is behind U5, U7 and U8, and takes the bits that the mask and the mode select. -/
theorem registerToCpsr : Obligations.RegisterToCpsr := by
  unfold Obligations.RegisterToCpsr
  intro i v s m h hto hm hpass o
  have hexec (hpc : v.readsPc = false) : exec i s = msrCpsr s v.mask o := by
    rw [exec_eq_msrTransfer h hpass hpc, MsrView.transfer, hto, if_neg Bool.false_ne_true]
  refine ⟨exec_msr_of_readsPc s h, fun hpc husr => ?_, fun hpc hpriv hmask hu => ?_, fun hpc hpriv hok => ?_⟩
  · subst husr
    have hu : ¬s.unpredictableMsr v.mask o = true := fun hu => ((unpredictableMsr_iff hm).1 hu).1 rfl
    exact ⟨_, (hexec hpc).trans (msrCpsr_of_predictable hm hu), bit_msrCpsr_usr v.mask s.cpsr o, setCpsr_frame ..⟩
  · exact (hexec hpc).trans (msrCpsr_of_unpredictable ((unpredictableMsr_iff hm).2 ⟨hpriv, hmask, hu⟩))
  · have hu : ¬s.unpredictableMsr v.mask o = true := by
      intro hu
      obtain ⟨-, hmask, hbad⟩ := (unpredictableMsr_iff hm).1 hu
      obtain ⟨hthumb, hlegal⟩ := hok hmask
      simp [hthumb, hlegal] at hbad
    exact ⟨_, (hexec hpc).trans (msrCpsr_of_predictable hm hu),
      fun j => bit_msrCpsr_of_privileged v.mask s.cpsr o j hpriv, setCpsr_frame ..⟩

/-! ## The write of the SPSR (R346) -/

/-- U6: a mode without an SPSR (R346). -/
theorem msrSpsr_of_none {s : State} (mask : BitVec 4) (o : Word) (h : s.spsr? = none) :
    msrSpsr s mask o = .next s := by
  rw [msrSpsr, h]

theorem msrSpsr_of_some {s : State} {m : Mode} {p : Psr} (mask : BitVec 4) (o : Word) (hm : s.mode? = some m)
    (h : s.spsrs.get? m = some p) : msrSpsr s mask o = .next (s.setSpsr m (maskedWrite p o
      (byteMask mask &&& (userMask ||| privMask ||| stateMask)))) := by
  rw [msrSpsr, spsr?_of_mode? hm, h, mode_of_mode? hm]

/-- Settles O54: the write of the current mode's SPSR is behind U5 and U6, and takes T too. -/
theorem registerToSpsr : Obligations.RegisterToSpsr := by
  unfold Obligations.RegisterToSpsr
  intro i v s m h hto hm hpass o
  have hexec (hpc : v.readsPc = false) : exec i s = msrSpsr s v.mask o := by
    rw [exec_eq_msrTransfer h hpass hpc, MsrView.transfer, hto, if_pos rfl]
  refine ⟨exec_msr_of_readsPc s h, fun hno => ?_, fun p hpc hp => ?_⟩
  · cases hpc : v.readsPc with
    | true => exact exec_msr_of_readsPc s h hpc
    | false => exact (hexec hpc).trans (msrSpsr_of_none v.mask o (spsr?_of_usr_or_sys hm hno))
  · exact ⟨_, _, (hexec hpc).trans (msrSpsr_of_some v.mask o hm hp), rfl, bit_msrSpsr v.mask p o, rfl,
      fun d _ => getCell_setSpsr .., ⟨fun _ => rfl, rfl⟩, rfl, rfl⟩

end Sys2Proof.Machine
end

section
/-! SUPPORT. SWI, the sentinel and BKPT behind their conditions (R349, R350, R392); then the proof of O23. -/

namespace Sys2Proof.Machine

/-- BKPT under Architectural: the abort behind U37 (R392). -/
theorem exec_bkpt {c : Cond} {s : State} (imm : BitVec 16) (hpass : condHolds c s.cpsr = true)
    (harch : s.params.unrouted = .architectural) :
    exec (.bkpt c imm) s = s.unlessUnpredictable (c != .al) (.next s.raiseBreakpoint) :=
  (ifPasses_of_holds _ hpass).trans (unrouted_architectural _ harch)

/-- Settles O23: behind its condition each of the three is one effect, BKPT's behind U37 too. -/
theorem softwareExceptions : Obligations.SoftwareExceptions := by
  unfold Obligations.SoftwareExceptions
  intro c s hpass
  refine ⟨fun imm => ?_, ?_, fun imm harch => ⟨fun hal => ?_, fun hal => ?_⟩⟩
  · exact ⟨s.raiseSwi, ifPasses_of_holds _ hpass, entered_enter ..⟩
  · exact ⟨s.halt, ifPasses_of_holds _ hpass, rfl⟩
  · subst hal
    exact ⟨s.raiseBreakpoint, exec_bkpt imm hpass harch, entered_enter ..⟩
  · rw [exec_bkpt imm hpass harch, bne_iff_ne.2 hal, unlessUnpredictable_true]

end Sys2Proof.Machine
end

section
/-! SUPPORT. What the twelve unrouted instructions share (R380): every one is the policy's choice behind its condition, and
under Architectural its own meaning; then the proof of O55. -/

namespace Sys2Proof.Machine

/-! ## R15 among the registers of an instruction (R381) -/

@[simp] theorem anyPc_cons (r : RegNo) (rs : List RegNo) : anyPc (r :: rs) = (r == 15#4 || anyPc rs) := by
  rw [anyPc, List.contains_cons, Bool.beq_comm, anyPc]

@[simp] theorem anyPc_nil : anyPc [] = false := rfl

/-! ## The policy (R380) -/

/-- An unrouted instruction asks the policy once its condition has passed, before anything else (R380). -/
theorem exec_eq_ifPasses_unrouted {i : Instr} {c : Cond} (s : State) (hu : i.isUnrouted = true)
    (hc : i.cond? = some c) : ∃ k, exec i s = s.ifPasses c (s.unrouted k) := by
  cases i <;> cases hu <;> cases hc <;> exact ⟨_, rfl⟩

theorem unrouted_refuse {s : State} (k : Out) (h : s.params.unrouted = .refuse) :
    s.unrouted k = .refused .unrouted := by
  rw [State.unrouted, h]

theorem unrouted_undefined {s : State} (k : Out) (h : s.params.unrouted = .undefined) :
    s.unrouted k = .next s.raiseUndefined := by
  rw [State.unrouted, h]

/-- Under Architectural, with a passing condition, the meaning behind both is what executes (R380). -/
theorem ifPasses_unrouted_architectural {s : State} {c : Cond} (k : Out) (hpass : condHolds c s.cpsr = true)
    (harch : s.params.unrouted = .architectural) : s.ifPasses c (s.unrouted k) = k :=
  (ifPasses_of_holds _ hpass).trans (unrouted_architectural k harch)

/-- Settles O55: a passing condition leaves the instruction to the policy, a failing one skips it. -/
theorem unroutedPolicy : Obligations.UnroutedPolicy := by
  unfold Obligations.UnroutedPolicy
  intro i c s hu hc
  obtain ⟨k, hk⟩ := exec_eq_ifPasses_unrouted s hu hc
  refine ⟨fun hpass hpolicy => ?_, fun hpass hpolicy => ?_, exec_of_fails hc⟩
  · rw [hk, ifPasses_of_holds _ hpass, unrouted_refuse k hpolicy]
  · rw [hk, ifPasses_of_holds _ hpass, unrouted_undefined k hpolicy]
    exact ⟨s.raiseUndefined, rfl, entered_enter ..⟩

end Sys2Proof.Machine
end

section
/-! SUPPORT. MUL and MLA (R381, R382): behind U32, the ordinary write-back of R206 with C and V of the CPSR; then the proof
of O56. -/

namespace Sys2Proof.Machine

/-- N and Z alone are the four flags with C and V as they were (R381). -/
theorem setNZ_eq_setNZCV (p : Psr) (v : Word) : setNZ p v = setNZCV p ⟨v, carry p, overflow p⟩ := by
  apply BitVec.eq_of_getLsbD_eq
  intro j _
  change bit (setNZ p v) j = bit (setNZCV p _) j
  rw [bit_setNZ, bit_setNZCV]
  by_cases hV : j = 28
  · subst hV; rfl
  by_cases hC : j = 29
  · subst hC; rfl
  rw [if_neg hV, if_neg hC]

/-- A product's write-back is that of a data-processing result which keeps C and V (R206, R381). -/
theorem setX_mulFlags_eq_writeResult (s : State) (sf : Bool) (rd : RegNo) (v : Word) :
    (s.setX rd v).mulFlags sf v = s.writeResult sf rd ⟨v, carry s.cpsr, overflow s.cpsr⟩ := by
  cases sf with
  | false => rfl
  | true => exact congrArg (s.setX rd v).setCpsr (setNZ_eq_setNZCV s.cpsr v)

section Rows

variable {c : Cond} {s : State} (sf : Bool) (rd rn rs rm : RegNo) (hpass : condHolds c s.cpsr = true)
  (harch : s.params.unrouted = .architectural)
include hpass harch

theorem exec_mul : exec (.mul c sf rd rs rm) s = s.unlessUnpredictable (anyPc [rd, rm, rs] || rd == rm)
    (.next (s.writeResult sf rd
      ⟨BitVec.ofNat 32 ((s.x rm).toNat * (s.x rs).toNat), carry s.cpsr, overflow s.cpsr⟩)) := by
  rw [← setX_mulFlags_eq_writeResult]
  exact ifPasses_unrouted_architectural _ hpass harch

theorem exec_mla : exec (.mla c sf rd rn rs rm) s = s.unlessUnpredictable (anyPc [rd, rm, rs, rn] || rd == rm)
    (.next (s.writeResult sf rd
      ⟨BitVec.ofNat 32 ((s.x rm).toNat * (s.x rs).toNat + (s.x rn).toNat), carry s.cpsr, overflow s.cpsr⟩)) := by
  rw [← setX_mulFlags_eq_writeResult]
  exact ifPasses_unrouted_architectural _ hpass harch

end Rows

/-- U32 of MUL (R381). -/
theorem unpredictableMul_iff (rd rs rm : RegNo) :
    (anyPc [rd, rm, rs] || rd == rm) = true ↔ rd = 15#4 ∨ rm = 15#4 ∨ rs = 15#4 ∨ rd = rm := by
  simp [or_assoc]

/-- U32 of MLA is that of MUL, or Rn = 15 (R382). -/
theorem unpredictableMla_eq (rd rn rs rm : RegNo) :
    (anyPc [rd, rm, rs, rn] || rd == rm) = ((anyPc [rd, rm, rs] || rd == rm) || rn == 15#4) := by
  simp only [anyPc_cons, anyPc_nil, Bool.or_false, Bool.or_assoc]
  rw [Bool.or_comm (rn == 15#4)]

/-- Settles O56: U32 makes either a no-op, and without it each is the write-back of its product. -/
theorem multiply : Obligations.Multiply := by
  unfold Obligations.Multiply
  intro c sf rd rn rs rm s hpass harch done
  have hmul := exec_mul sf rd rs rm hpass harch
  have hmla := exec_mla sf rd rn rs rm hpass harch
  rw [unpredictableMla_eq] at hmla
  refine ⟨fun hu => ?_, fun hrn => ?_, fun hrd hrm hrs hne => ?_⟩
  · rw [hmul, hmla, (unpredictableMul_iff rd rs rm).2 hu]
    exact ⟨rfl, rfl⟩
  · rw [hmla, hrn, beq_self_eq_true, Bool.or_true, unlessUnpredictable_true]
  · have hu : (anyPc [rd, rm, rs] || rd == rm) = false := by
      rw [← Bool.not_eq_true, unpredictableMul_iff]
      simp only [hrd, hrm, hrs, hne, or_self, not_false_eq_true]
    rw [hu] at hmul hmla
    refine ⟨⟨_, hmul, writeResult_effect ..⟩, fun hrn => ?_⟩
    rw [beq_false_of_ne hrn] at hmla
    exact ⟨_, hmla, writeResult_effect ..⟩

end Sys2Proof.Machine
end

section
/-! SUPPORT. The long multiplies by their view (R383–R386): every row is, behind the condition, the policy and U33, the
write of its view's product, which is the exact one modulo 2^64; then the proof of O57. -/

namespace Sys2Proof.Machine

/-! ## The product -/

/-- The product as a row's meaning computes it, on 64 bits (R383–R386). -/
def LongView.product (v : LongView) (s : State) : BitVec 64 :=
  let p := if v.signed then signedProduct (s.x v.rm) (s.x v.rs) else unsignedProduct (s.x v.rm) (s.x v.rs)
  if v.accumulates then p + s.accumulator v.rdHi v.rdLo else p

/-- Reduction modulo 2^64 commutes with the accumulating sum. -/
theorem LongView.product_eq_ofInt (v : LongView) (s : State) : v.product s = BitVec.ofInt 64 (v.exact s) := by
  unfold LongView.product LongView.exact
  rw [BitVec.ofInt_add, apply_ite (BitVec.ofInt 64) (v.signed = true), BitVec.ofInt_natCast,
    BitVec.ofInt_natCast]
  cases v.accumulates with
  | false => exact (BitVec.add_zero _).symm
  | true => rfl

/-! ## The rows -/

/-- The view tests U33 in another order than the rows. -/
theorem LongView.unpredictable_eq (v : LongView) : v.unpredictable = unpredictableLong v.rdHi v.rdLo v.rs v.rm := by
  simp only [LongView.unpredictable, unpredictableLong, anyPc_cons, anyPc_nil, Bool.or_false, Bool.or_assoc]
  rw [Bool.or_left_comm (v.rs == 15#4)]

/-- Every long multiply: behind the condition, the policy and U33, the write of its view's product (R383–R386). -/
theorem exec_of_longView {i : Instr} {v : LongView} (s : State) (h : longView i = some v) :
    exec i s = s.ifPasses v.cond (s.unrouted (s.unlessUnpredictable v.unpredictable
      (.next (s.writeLong v.sets v.rdHi v.rdLo (v.product s))))) := by
  rw [LongView.unpredictable_eq]
  cases i <;> cases h <;> rfl

/-! ## What the write of a product leaves -/

theorem flagsAre_setNZLong (p : Psr) (v : BitVec 64) :
    flagsAre p (setNZLong p v) (v.getLsbD 63) (v == 0#64) (carry p) (overflow p) := by
  refine ⟨bit_setNZLong p v 31, bit_setNZLong p v 30, bit_setNZLong p v 29, bit_setNZLong p v 28, fun j hj => ?_⟩
  rw [bit_setNZLong, if_neg (by omega), if_neg (by omega)]

theorem getCell_writeLong (s : State) (sf : Bool) (hi lo : RegNo) (p : BitVec 64) (d : RegCell) :
    (s.writeLong sf hi lo p).getCell d =
      if d = slot s.mode hi then p.extractLsb' 32 32
      else if d = slot s.mode lo then p.extractLsb' 0 32 else s.getCell d := by
  rw [← getCell_setX, ← mode_setX s lo (p.extractLsb' 0 32), ← getCell_setX]
  cases sf <;> rfl

/-- The two halves of a product go to two registers, and with S = 1 its sign and zero go to N and Z (R383). -/
theorem writeLong_effect (s : State) (sf : Bool) {hi lo : RegNo} (p : BitVec 64) (hne : hi ≠ lo) :
    (s.writeLong sf hi lo p).getCell (slot s.mode hi) ++ (s.writeLong sf hi lo p).getCell (slot s.mode lo) = p ∧
    sameCellsBut [slot s.mode hi, slot s.mode lo] s (s.writeLong sf hi lo p) ∧
    (sf = true → flagsAre s.cpsr (s.writeLong sf hi lo p).cpsr (p.getLsbD 63) (p == 0#64) (carry s.cpsr)
      (overflow s.cpsr)) ∧
    (sf = false → (s.writeLong sf hi lo p).cpsr = s.cpsr) ∧
    sameStatusButCpsr s (s.writeLong sf hi lo p) ∧ sameMemory s (s.writeLong sf hi lo p) := by
  have hquiet := quiet_writeLong s sf hi lo p
  refine ⟨?_, fun d hd => ?_, ?_, ?_, ⟨hquiet.spsrs, hquiet.params, hquiet.result⟩, ?_⟩
  · rw [getCell_writeLong, if_pos rfl, getCell_writeLong, if_neg (mt (slot_inj ..).1 hne.symm), if_pos rfl,
      BitVec.extractLsb'_append_extractLsb']
  · obtain ⟨hhi, hlo⟩ : d ≠ slot s.mode hi ∧ d ≠ slot s.mode lo := by simpa using hd
    rw [getCell_writeLong, if_neg hhi, if_neg hlo]
  · rintro rfl
    exact flagsAre_setNZLong s.cpsr p
  · rintro rfl
    rfl
  · cases sf <;> exact ⟨fun _ => rfl, rfl⟩

/-- Without U33 the two halves go to two registers (R383). -/
theorem LongView.rdHi_ne_rdLo {v : LongView} (hu : v.unpredictable = false) : v.rdHi ≠ v.rdLo := by
  simp only [LongView.unpredictable, Bool.or_eq_false_iff, beq_eq_false_iff_ne] at hu
  obtain ⟨⟨⟨-, hne⟩, -⟩, -⟩ := hu
  exact hne

/-- Settles O57: U33 makes a no-op, and without it the two registers take the exact product modulo 2^64. -/
theorem multiplyLong : Obligations.MultiplyLong := by
  unfold Obligations.MultiplyLong
  intro i v s h hpass harch
  rw [exec_of_longView s h, ifPasses_unrouted_architectural _ hpass harch]
  refine ⟨fun hu => ?_, fun hu => ?_⟩
  · rw [hu, unlessUnpredictable_true]
  · rw [hu, unlessUnpredictable_false, ← LongView.product_eq_ofInt]
    exact ⟨_, rfl, writeLong_effect s v.sets _ (LongView.rdHi_ne_rdLo hu)⟩

end Sys2Proof.Machine
end

section
/-! SUPPORT. The swaps by their view (R387, R388): every row is, behind the condition, the policy and U34, the read and the
write of its view; then the proof of O58. -/

namespace Sys2Proof.Machine

/-! ## The rows -/

/-- The read, the write and the register write of a swap (R387, R388). -/
def SwapView.access (v : SwapView) (s : State) : Out :=
  if v.isByte then s.swap v.rd (s.load .byte (s.x v.rn)) (s.store .byte (s.x v.rn) (s.x v.rm))
  else s.swap v.rd (s.loadRotated (s.x v.rn)) (s.storeAligned (s.x v.rn) (s.x v.rm))

theorem SwapView.unpredictable_eq (v : SwapView) : v.unpredictable = unpredictableSwp v.rn v.rd v.rm := by
  simp only [SwapView.unpredictable, unpredictableSwp, anyPc_cons, anyPc_nil, Bool.or_false, Bool.or_assoc]

/-- Either swap: behind the condition, the policy and U34, the access of its view (R387, R388). -/
theorem exec_of_swapView {i : Instr} {v : SwapView} (s : State) (h : swapView i = some v) :
    exec i s = s.ifPasses v.cond (s.unrouted (s.unlessUnpredictable v.unpredictable (v.access s))) := by
  rw [SwapView.unpredictable_eq]
  cases i <;> cases h <;> rfl

/-! ## The outcomes of the access -/

/-- A swap whose read and write both go through ends with the register write (R387). -/
theorem swap_some (s : State) (rd : RegNo) (temp : Word) (t : State) :
    s.swap rd (some temp) (some t) = .next (t.setX rd temp) := rfl

theorem SwapView.access_word {v : SwapView} {s t : State} {data : Word} (hb : v.isByte = false)
    (hload : s.load .word (wordAligned (s.x v.rn)) = some data)
    (hstore : s.store .word (wordAligned (s.x v.rn)) (s.x v.rm) = some t) :
    v.access s = .next (t.setX v.rd (data.rotateRight (8 * ((s.x v.rn).toNat % 4)))) := by
  rw [SwapView.access, hb, if_neg Bool.false_ne_true, loadRotated_of_load hload, State.storeAligned, hstore, swap_some]

theorem SwapView.access_byte {v : SwapView} {s t : State} (hb : v.isByte = true)
    (hin : s.inMemory .byte (s.x v.rn) = true) (hstore : s.store .byte (s.x v.rn) (s.x v.rm) = some t) :
    v.access s = .next (t.setX v.rd ((s.byteAt (s.x v.rn).toNat).setWidth 32)) := by
  rw [SwapView.access, hb, if_pos rfl, load_byte_of_inMemory hin, hstore, swap_some]

/-- The read comes first: outside memory it fails before anything is written (R387). -/
theorem SwapView.access_of_outside {v : SwapView} {s : State}
    (h : (if v.isByte then s.inMemory .byte (s.x v.rn) else s.inMemory .word (wordAligned (s.x v.rn))) = false) :
    v.access s = .next s.raiseDataAbort := by
  unfold SwapView.access
  cases hb : v.isByte <;> rw [hb] at h
  · exact congrArg (s.swap v.rd · _) (loadRotated_of_outside h)
  · exact congrArg (s.swap v.rd · _) (load_of_outside _ _ _ h)

/-- The store and then Rd: the bytes of the access, the register, and nothing else (R387). -/
theorem store_setX_effect {s t : State} {w : Width} {a x temp : Word} {rd : RegNo} (hm : s.mem.wf = true)
    (h : s.store w a x = some t) :
    (t.setX rd temp).getCell (slot s.mode rd) = temp ∧ (t.setX rd temp).load w a = some (w.low x) ∧
    sameMemoryBut a w.bytes s (t.setX rd temp) ∧ sameCellsBut [slot s.mode rd] s (t.setX rd temp) ∧
    sameStatus s (t.setX rd temp) := by
  -- A register write is a write-back that the index mode asks for.
  obtain ⟨hload, hmem, hreg, hcells, hstatus⟩ :=
    store_writeBack_effect (u := t.setX rd temp) (i := .postIndexed) (rn := rd) (nb := temp) hm h rfl
  exact ⟨hreg rfl, hload, hmem, hcells, hstatus⟩

/-- Settles O58: U34 makes a no-op; without it the access is in memory for both the read and the write, or for neither. -/
theorem swap : Obligations.Swap := by
  unfold Obligations.Swap
  intro i v s h hpass harch hm a a4
  rw [exec_of_swapView s h, ifPasses_unrouted_architectural _ hpass harch]
  refine ⟨fun hu => ?_, fun data hu hb hload => ?_, fun hu hb hin => ?_, fun hu hout => ?_⟩
  · rw [hu, unlessUnpredictable_true]
  · rw [hu, unlessUnpredictable_false]
    have hin : s.inMemory .word a4 = true := by rw [← load_isSome, hload, Option.isSome_some]
    have hstore := store_of_inMemory s .word a4 (s.x v.rm) hin
    exact ⟨_, SwapView.access_word hb hload hstore, store_setX_effect hm hstore⟩
  · rw [hu, unlessUnpredictable_false]
    have hstore := store_of_inMemory s .byte a (s.x v.rm) hin
    refine ⟨_, SwapView.access_byte hb hin hstore, ?_⟩
    obtain ⟨hreg, hload, hrest⟩ := store_setX_effect hm hstore
    exact ⟨hreg, (byteAt_of_load_byte hload).trans (setWidth_byte_zext _), hrest⟩
  · rw [hu, unlessUnpredictable_false]
    exact ⟨_, SwapView.access_of_outside hout, entered_enter ..⟩

end Sys2Proof.Machine
end

section
/-! SUPPORT. BX and BLX (register) (R389, R390) as the interworking branch of R253, BLX after its link register; then the
proof of O59. -/

namespace Sys2Proof.Machine

section Rows

variable {c : Cond} {s : State} (rm : RegNo) (hpass : condHolds c s.cpsr = true)
  (harch : s.params.unrouted = .architectural)
include hpass harch

theorem exec_bx : exec (.bx c rm) s = .next (s.branchExchange (s.x rm)) :=
  ifPasses_unrouted_architectural _ hpass harch

/-- Rm is read in the state before LR is written, also for `BLX LR` (R390). -/
theorem exec_blxReg : exec (.blxReg c rm) s = s.unlessUnpredictable (rm == 15#4)
    (.next ((s.setX 14#4 (s.ia + 4#32)).branchExchange (s.x rm))) :=
  ifPasses_unrouted_architectural _ hpass harch

end Rows

/-- Settles O59: BX is the interworking branch with no write-back before it, BLX the one after the write of R14. -/
theorem branchExchange : Obligations.BranchExchange := by
  unfold Obligations.BranchExchange
  intro c rm s hpass harch
  refine ⟨?_, fun hrm => ?_, fun hrm => ?_⟩
  · obtain ⟨hpc, hthumb, -, hrest⟩ := writeBack_branchExchange_effect (s := s) (i := .offset) (rn := rm) (nb := 0#32)
      (x := s.x rm) rfl nofun
    exact ⟨_, exec_bx rm hpass harch, hpc, hthumb, hrest⟩
  · obtain ⟨hpc, hthumb, hlink, hrest⟩ := writeBack_branchExchange_effect (s := s) (i := .postIndexed) (rn := 14#4)
      (nb := s.ia + 4#32) (x := s.x rm) rfl fun _ => by decide
    have hexec := exec_blxReg rm hpass harch
    rw [beq_false_of_ne hrm, unlessUnpredictable_false] at hexec
    exact ⟨_, hexec, hpc, hthumb, hlink rfl, hrest⟩
  · rw [exec_blxReg rm hpass harch, hrm, beq_self_eq_true, unlessUnpredictable_true]

end Sys2Proof.Machine
end

section
/-! SUPPORT. The count of leading zeros (R12) by the bits above and at its end, and CLZ (R391); then the proof of O60. -/

namespace Sys2Proof.Machine

/-! ## The count (R12) -/

theorem leadingZerosBelow_le (v : Word) (n : Nat) : leadingZerosBelow v n ≤ n := by
  induction n with
  | zero => exact Nat.le_refl 0
  | succ n ih =>
    rw [leadingZerosBelow]
    split <;> omega

/-- The bits counted are 0. -/
theorem bit_of_leadingZerosBelow (v : Word) {n j : Nat} (hlo : n - leadingZerosBelow v n ≤ j) (hhi : j < n) :
    bit v j = false := by
  induction n with
  | zero => exact absurd hhi (Nat.not_lt_zero j)
  | succ n ih =>
    rw [leadingZerosBelow] at hlo
    split at hlo
    next => omega
    next hbit =>
      obtain rfl | hlt := Nat.eq_or_lt_of_le (Nat.le_of_lt_succ hhi)
      · exact Bool.not_eq_true _ ▸ hbit
      · exact ih (by omega) hlt

/-- The bit after those counted is 1, where there is one. -/
theorem bit_after_leadingZerosBelow (v : Word) {n : Nat} (h : leadingZerosBelow v n < n) :
    bit v (n - 1 - leadingZerosBelow v n) = true := by
  induction n with
  | zero => exact absurd h (Nat.not_lt_zero _)
  | succ n ih =>
    rw [leadingZerosBelow] at h ⊢
    split
    next hbit => exact hbit
    next hbit =>
      rw [if_neg hbit] at h
      have hstop := ih (by omega)
      rwa [show n + 1 - 1 - (leadingZerosBelow v n + 1) = n - 1 - leadingZerosBelow v n by omega]

/-! ## CLZ (R391) -/

theorem exec_clz {c : Cond} {s : State} (rd rm : RegNo) (hpass : condHolds c s.cpsr = true)
    (harch : s.params.unrouted = .architectural) :
    exec (.clz c rd rm) s =
      s.unlessUnpredictable (anyPc [rd, rm]) (.next (s.setX rd (countLeadingZeros (s.x rm)))) :=
  ifPasses_unrouted_architectural _ hpass harch

/-- Settles O60: U35 makes a no-op, and without it CLZ is the register write of the count, whose bits pin it. -/
theorem countLeadingZeros_clz : Obligations.CountLeadingZeros := by
  unfold Obligations.CountLeadingZeros
  intro c rd rm s hpass harch
  rw [exec_clz rd rm hpass harch]
  refine ⟨fun hpc => ?_, fun hrd hrm => ?_⟩
  · have hu : anyPc [rd, rm] = true := by simpa using hpc
    rw [hu, unlessUnpredictable_true]
  · have hu : anyPc [rd, rm] = false := by simp [hrd, hrm]
    rw [hu, unlessUnpredictable_false]
    refine ⟨s.setX rd (countLeadingZeros (s.x rm)), leadingZerosBelow (s.x rm) 32, rfl, getCell_setCell_self ..,
      leadingZerosBelow_le .., fun j hj => ?_, bit_after_leadingZerosBelow (s.x rm), sameCellsBut_setCell _ _ _,
      sameStatus_setCell .., sameMemory_setCell ..⟩
    by_cases hlt : j < 32
    · exact bit_of_leadingZerosBelow (s.x rm) hj hlt
    · exact bit_ge _ _ (Nat.le_of_not_lt hlt)

end Sys2Proof.Machine
end

section
/-! SUPPORT. The two outcomes of a host raise (R423, R428), the mask that an entry leaves, and the priority order as an
insertion sort by rank (R427); then the proofs of O19, O20, O21 and O22. -/

namespace Sys2Proof.Machine

/-! ## A host raise (R428) -/

theorem raise_of_masked {s : State} {e : HostCause} (h : s.masked e = true) : s.raise e = (.suppressed, s) :=
  if_pos h

theorem raise_of_not_masked {s : State} {e : HostCause} (h : s.masked e = false) :
    s.raise e = (.taken e.cause.code, s.enter e.cause s.pc) := by
  rw [State.raise, h, if_neg Bool.false_ne_true]

/-- A raise that is not masked is the entry of R422 at the pc. -/
theorem raise_enters {s : State} {e : HostCause} (h : s.masked e = false) :
    ∃ t, s.raise e = (.taken e.cause.code, t) ∧ entered e.cause s.pc s t :=
  ⟨_, raise_of_not_masked h, entered_enter ..⟩

/-- A raise that is taken enters the cause. -/
theorem entered_of_raise {s t : State} {e : HostCause} {n : Nat} (h : s.raise e = (.taken n, t)) :
    entered e.cause s.pc s t := by
  cases hm : s.masked e with
  | true => rw [raise_of_masked hm] at h; cases h
  | false => rw [raise_of_not_masked hm] at h; cases h; exact entered_enter ..

/-! ## The priority order (R427) -/

theorem HostCause.rank_injective : Function.Injective HostCause.rank := by
  intro d e h
  cases d <;> cases e <;> cases h <;> rfl

/-- The order of R427 is Mathlib's insertion sort by rank. -/
theorem byPriority_eq_insertionSort (es : List HostCause) :
    byPriority es = es.insertionSort (HostCause.rank ⁻¹'o (· ≤ ·)) := by
  have hinsert (e : HostCause) (ds : List HostCause) :
      insertByRank e ds = ds.orderedInsert (HostCause.rank ⁻¹'o (· ≤ ·)) e := by
    induction ds with
    | nil => rfl
    | cons d ds ih => rw [insertByRank, ih]; rfl
  induction es with
  | nil => rfl
  | cons e es ih => rw [byPriority, hinsert, ih, List.insertionSort_cons]

theorem perm_byPriority (es : List HostCause) : (byPriority es).Perm es := by
  rw [byPriority_eq_insertionSort]
  exact List.perm_insertionSort ..

theorem pairwise_byPriority (es : List HostCause) : (byPriority es).Pairwise fun d e => d.rank ≤ e.rank := by
  rw [byPriority_eq_insertionSort]
  exact List.pairwise_insertionSort (HostCause.rank ⁻¹'o (· ≤ ·)) es

/-- No two of the host's causes share a place, so that the order they are listed in does not matter. -/
theorem byPriority_congr {es ds : List HostCause} (h : es.Perm ds) : byPriority es = byPriority ds :=
  List.Perm.eq_of_pairwise (fun _ _ _ _ hle hge => HostCause.rank_injective (Nat.le_antisymm hle hge))
    (pairwise_byPriority es) (pairwise_byPriority ds)
    ((perm_byPriority es).trans (h.trans (perm_byPriority ds).symm))

/-! ## The four statements -/

/-- Settles O19: the table is the model's own, and a raise that is not masked is the entry at the pc. -/
theorem causeTable : Obligations.CauseTable := by
  unfold Obligations.CauseTable
  refine ⟨rfl, fun s => ⟨rfl, rfl, rfl, rfl, ?_, fun hirq => ?_, fun hfiq => ?_⟩⟩
  · exact congrArg Prod.snd (raise_of_not_masked (e := .reset) rfl)
  · exact congrArg Prod.snd (raise_of_not_masked (e := .interrupt) hirq)
  · exact congrArg Prod.snd (raise_of_not_masked (e := .fastInterrupt) hfiq)

/-- Settles O20: `entered` is the entry sequence of `enter`, field by field. -/
theorem entryEffects : Obligations.EntryEffects := entered_enter

/-- Settles O22: Reset is never masked, and its entry sets F and saves no SPSR. -/
theorem resetRaise : Obligations.ResetRaise := by
  unfold Obligations.ResetRaise
  intro s
  obtain ⟨t, hraise, hpc, hlr, hcells, hspsrs, hmode, hthumb, hirq, hfiq, hbits, hmem, -, -⟩ :=
    raise_enters (s := s) (e := .reset) rfl
  exact ⟨t, hraise, hpc, hmode, hthumb, hirq, hfiq, hlr, hcells, hbits, hspsrs, hmem⟩

/-- Settles O21: a raise is decided by its mask alone, every entry sets I, and the raises follow the ranks, of which no two
host causes share one. -/
theorem hostRaise : Obligations.HostRaise := by
  unfold Obligations.HostRaise
  refine ⟨fun s => ⟨fun hirq => ?_, fun hfiq => ?_, fun hirq => ?_, fun hfiq => ?_, ?_, fun t ht => ?_⟩, rfl,
    fun es => ⟨perm_byPriority es, pairwise_byPriority es, fun _ => rfl, fun ds s hperm => ?_⟩⟩
  · exact raise_of_masked (e := .interrupt) hirq
  · exact raise_of_masked (e := .fastInterrupt) hfiq
  · exact raise_enters (e := .interrupt) hirq
  · exact raise_enters (e := .fastInterrupt) hfiq
  · exact raise_enters (e := .reset) rfl
  · obtain ⟨-, -, -, -, -, -, hirq, -⟩ := entered_of_raise ht
    exact raise_of_masked (e := .interrupt) hirq
  · rw [State.raiseAll, State.raiseAll, byPriority_congr hperm]

end Sys2Proof.Machine
end

section
/-! SUPPORT. What a step from USR can do (R432, R433): an effect that USR itself may have, or an exception entry; then the
proofs of O13 and O14. -/

namespace Sys2Proof.Machine

/-! ## The effects that USR may have (R432) -/

/-- An effect that USR itself may have: no banked cell of another mode, no SPSR, and no CPSR bit but N, Z, C, V and T
(R432). -/
structure Unprivileged (s t : State) : Prop where
  cells : ∀ d, d ∈ privilegedCells → t.getCell d = s.getCell d
  status : ∀ j, j < 28 → j ≠ 5 → bit t.cpsr j = bit s.cpsr j
  spsrs : t.spsrs = s.spsrs

theorem Unprivileged.trans {s t u : State} (h : Unprivileged s t) (h' : Unprivileged t u) : Unprivileged s u where
  cells d hd := (h'.cells d hd).trans (h.cells d hd)
  status j hj hj' := (h'.status j hj hj').trans (h.status j hj hj')
  spsrs := h'.spsrs.trans h.spsrs

/-- The mode is among the CPSR bits that are kept. -/
theorem Unprivileged.mode? {s t : State} (h : Unprivileged s t) : t.mode? = s.mode? := by
  rw [State.mode?, State.mode?, modeField_of_status h.status]

/-- USR's bank holds none of the cells that USR does not see (R41). -/
theorem ne_slot_usr_of_mem_privilegedCells {d : RegCell} (h : d ∈ privilegedCells) (r : RegNo) : d ≠ slot .usr r := by
  have hbank : ∀ d ∈ privilegedCells, ∀ r : RegNo, d ≠ slot .usr r := by decide
  exact hbank d h r

theorem ne_r15_of_mem_privilegedCells {d : RegCell} (h : d ∈ privilegedCells) : d ≠ .r15 :=
  ne_slot_usr_of_mem_privilegedCells h 15#4

theorem Quiet.unprivileged {s t : State} (q : Quiet s t) (hs : s.mode = .usr) : Unprivileged s t where
  cells d hd := q.cells d fun r => hs ▸ ne_slot_usr_of_mem_privilegedCells hd r
  status := q.status
  spsrs := q.spsrs

theorem unprivileged_halt (s : State) : Unprivileged s s.halt :=
  ⟨fun d _ => getCell_halt s d, fun _ _ _ => rfl, halt_spsrs s⟩

theorem unprivileged_advance (s : State) : Unprivileged s s.advance where
  cells d hd := by rw [getCell_advance, if_neg (ne_r15_of_mem_privilegedCells hd)]
  status _ _ _ := rfl
  spsrs := advance_spsrs s

/-! ## The entries (R422) -/

/-- `t` is the entry of a cause other than Reset from `s`, memory apart. -/
def EntersFrom (s t : State) : Prop := ∃ (m : Memory) (e : Cause) (ret : Word),
  e ≠ .reset ∧ t = State.enter e ret { s with mem := m }

/-- Every cause but Reset saves the CPSR (R421). -/
theorem savesSpsr_of_ne_reset {e : Cause} (h : e ≠ .reset) : e.savesSpsr = true := by
  cases e with
  | reset => exact absurd rfl h
  | undefinedInstruction | softwareInterrupt | prefetchAbort | dataAbort | interrupt | fastInterrupt => rfl

theorem target_ne_usr (e : Cause) : e.target ≠ .usr := by cases e <;> decide

/-- What an entry leaves, whatever memory it is made with. -/
theorem EntersFrom.effect {s t : State} (h : EntersFrom s t) :
    ∃ e : Cause, t.result = .exception e ∧ t.mode? = some e.target ∧ t.pc = e.vector ∧
      t.spsrs = s.spsrs.set e.target s.cpsr ∧ sameCellsBut [.r15, slot e.target 14#4] s t := by
  obtain ⟨m, e, ret, hreset, rfl⟩ := h
  obtain ⟨hpc, -, hcells, hspsrs, hmode, -, -, -, -, -, -, hresult⟩ := entered_enter e ret { s with mem := m }
  exact ⟨e, hresult, hmode, hpc, hspsrs.trans (if_pos (savesSpsr_of_ne_reset hreset)), hcells⟩

/-! ## A step from USR (R433) -/

/-- A step from USR has an effect that USR may have, or enters a cause. -/
theorem step_from_usr {s t : State} (hs : s.mode? = some .usr) (h : step s = .next t) :
    Unprivileged s t ∨ EntersFrom s t := by
  have husr : s.advance.mode = .usr := mode_of_mode? hs
  obtain ⟨-, ⟨-, rfl⟩ | ⟨w, -, hexec⟩⟩ := step_next h
  · exact .inr ⟨s.mem, .prefetchAbort, s.pc, nofun, rfl⟩
  · have hends := exec_ends (decodeWord w) s.advance
    rw [hexec] at hends
    obtain q | p | ⟨rfl, -⟩ | ⟨m, e, rfl, -, -, hreset, -⟩ := hends
    · exact .inl ((unprivileged_advance s).trans (q.unprivileged husr))
    · exact absurd husr p.mode
    · exact .inl ((unprivileged_advance s).trans (unprivileged_halt _))
    · exact .inr ⟨m, e, _, hreset, enter_advance { s with mem := m } e _⟩

/-! ## The two statements -/

/-- Settles O13: an effect that USR may have keeps the mode, and all else is an entry. -/
theorem userModeLeavesOnlyByException : Obligations.UserModeLeavesOnlyByException := by
  unfold Obligations.UserModeLeavesOnlyByException
  intro s t hs h
  obtain hstay | henter := step_from_usr hs h
  · exact .inl (hstay.mode?.trans hs)
  · obtain ⟨e, hresult, hmode, hpc, hspsrs, -⟩ := henter.effect
    exact .inr ⟨e, hresult, hmode, hpc, hspsrs⟩

/-- Settles O14: the mode after the step tells the two kinds of step apart, since no cause enters USR. -/
theorem userStepKeepsPrivilegedState : Obligations.UserStepKeepsPrivilegedState := by
  unfold Obligations.UserStepKeepsPrivilegedState
  intro s t hs h
  obtain hstay | henter := step_from_usr hs h
  · have hmode := hstay.mode?.trans hs
    refine ⟨fun _ => ⟨hstay.cells, hstay.spsrs, hstay.status⟩, fun m hm hne => ?_⟩
    exact absurd (Option.some_inj.1 (hm.symm.trans hmode)) hne
  · obtain ⟨e, -, hmode, -, hspsrs, hcells⟩ := henter.effect
    refine ⟨fun husr => ?_, fun m hm _ => ?_⟩
    · exact absurd (Option.some_inj.1 (hmode.symm.trans husr)) (target_ne_usr e)
    · obtain rfl := Option.some_inj.1 (hm.symm.trans hmode)
      refine ⟨fun d hd hlr => hcells d ?_, hspsrs⟩
      simpa [hlr] using ne_r15_of_mem_privilegedCells hd

end Sys2Proof.Machine
end

section
/-! SUPPORT. An instruction that ends in an exception (R424): the one entry it has made, the conditions it stood behind, and
the access of a block transfer or an STRD that failed (R112); then the proof of O25. -/

namespace Sys2Proof.Machine

/-! ## The entry -/

/-- Of the effects of an instruction only an entry makes the result an exception. -/
theorem excepted_of_result {i : Instr} {s t : State} {e : Cause} (hs : s.result = .normal) (h : exec i s = .next t)
    (ht : t.result = .exception e) : Excepted i s t := by
  have hends := exec_ends i s
  rw [h] at hends
  obtain q | p | ⟨rfl, -⟩ | hentry := hends
  · rw [q.result, hs] at ht; cases ht
  · rw [p.result, hs] at ht; cases ht
  · cases ht
  · exact hentry

/-- An instruction that has changed the state has passed its condition (R175). -/
theorem ifPasses_of_ne {s t : State} {c : Cond} {k : Out} (h : s.ifPasses c k = .next t) (hne : t ≠ s) :
    condHolds c s.cpsr = true ∧ k = .next t := by
  cases hc : condHolds c s.cpsr with
  | true => exact ⟨rfl, (ifPasses_of_holds k hc).symm.trans h⟩
  | false => rw [ifPasses_of_fails k hc] at h; cases h; exact absurd rfl hne

/-- An instruction that has changed the state is not UNPREDICTABLE (R179). -/
theorem unlessUnpredictable_of_ne {s t : State} {u : Bool} {k : Out} (h : s.unlessUnpredictable u k = .next t)
    (hne : t ≠ s) : u = false ∧ k = .next t := by
  cases u with
  | true => cases h; exact absurd rfl hne
  | false => exact ⟨rfl, h⟩

/-! ## A block transfer that aborts (R318) -/

/-- A load whose slots all lie in memory leaves the result as it was. -/
theorem BlockView.result_of_load {v : BlockView} {s t : State} (hf : v.form.loads = true)
    (hin : s.blockInMemory v.md (s.x v.rn) v.list) (h : v.transfer s = .next t) : t.result = s.result := by
  obtain ⟨vals, hload, -⟩ := BlockView.loadBlock_of_inMemory hin
  obtain ⟨-, -, -, hresult⟩ := sameStatus_loaded v s vals
  cases hform : v.form with
  | ldm1 =>
    simp only [BlockView.transfer, hform, hload, orAbort_some] at h
    cases h
    split <;> exact hresult
  | ldm2 =>
    simp only [BlockView.transfer, hform, hload, orAbort_some] at h
    cases h
    obtain ⟨-, -, -, husr⟩ := sameStatus_written v .usr s vals
    exact husr
  | ldm3 =>
    cases hspsr : s.spsr? with
    | none => simp only [BlockView.transfer, hform, hload, hspsr] at h; cases h; rfl
    | some saved =>
      simp only [BlockView.transfer, hform, hload, hspsr] at h
      obtain rfl | h := unlessUnpredictable_cases h
      · rfl
      · cases h; exact hresult
  | stm1 | stm2 => rw [hform] at hf; cases hf

/-- A store whose slots all lie in memory leaves the result as it was. -/
theorem BlockView.result_of_store {v : BlockView} {s t : State} (hf : v.form.loads = false)
    (hu : v.unpredictable s = false) (hm : s.mem.wf = true) (hin : s.blockInMemory v.md (s.x v.rn) v.list)
    (h : v.transfer s = .next t) : t.result = s.result := by
  rw [BlockView.transfer_of_stores hf hu, storeBlock_of_writes _ (storeMany_writes hm hin)] at h
  cases h
  obtain ⟨-, -, -, -, -, -, -, hresult⟩ := afterStores_blockWriteBack_effect v s (popcount v.list) v.w v.rn
    (blockNewBase v.md (s.x v.rn) v.list)
  exact hresult

/-- Where not every slot lies in memory there is a first one outside (R112). -/
theorem BlockView.exists_first_outside {v : BlockView} {s : State}
    (h : ¬ s.blockInMemory v.md (s.x v.rn) v.list) :
    ∃ k, k < popcount v.list ∧ (∀ j, j < k → s.inMemory .word (slotAddr v.md (s.x v.rn) v.list j) = true) ∧
      s.inMemory .word (slotAddr v.md (s.x v.rn) v.list k) = false := by
  have hex : ∃ k, k < popcount v.list ∧ s.inMemory .word (slotAddr v.md (s.x v.rn) v.list k) = false := by
    simpa [State.blockInMemory] using h
  obtain ⟨hk, hout⟩ := Nat.find_spec hex
  refine ⟨Nat.find hex, hk, fun j hj => ?_, hout⟩
  simpa [hj.trans hk] using Nat.find_min hex hj

/-- A block transfer that ends in an exception has aborted at its first slot outside memory, with the completed writes of
an STM made and no other. -/
theorem block_aborted {i : Instr} {v : BlockView} {s t : State} (hv : blockView i = some v) (hm : s.mem.wf = true)
    (h : exec i s = .next t) (hne : t.result ≠ s.result) :
    ∃ k, k < popcount v.list ∧
      (∀ j, j < k → s.inMemory .word (slotAddr v.md (s.x v.rn) v.list j) = true) ∧
      s.inMemory .word (slotAddr v.md (s.x v.rn) v.list k) = false ∧
      (∀ b, (∀ j, j < k →
          b < (slotAddr v.md (s.x v.rn) v.list j).toNat ∨ (slotAddr v.md (s.x v.rn) v.list j).toNat + 4 ≤ b) →
        t.byteAt b = s.byteAt b) ∧
      (v.form.loads = false → ∀ r : RegNo, v.list.getLsbD r.toNat = true → slotOf v.list r.toNat < k →
        t.load .word (slotAddr v.md (s.x v.rn) v.list (slotOf v.list r.toNat)) =
          some (if v.form = .stm1 then s.x r else s.xUsr r)) := by
  have hchanged : t ≠ s := ne_of_apply_ne State.result hne
  obtain ⟨hpass, hguarded⟩ := ifPasses_of_ne ((exec_of_blockView s hv).symm.trans h) hchanged
  obtain ⟨hu, htransfer⟩ := unlessUnpredictable_of_ne hguarded hchanged
  have hout : ¬ s.blockInMemory v.md (s.x v.rn) v.list := fun hin => hne <| by
    cases hf : v.form.loads with
    | true => exact BlockView.result_of_load hf hin htransfer
    | false => exact BlockView.result_of_store hf hu hm hin htransfer
  obtain ⟨k, hk, hfirst, hfails⟩ := BlockView.exists_first_outside hout
  obtain ⟨t', h', -, hloads, hstores⟩ := blockAborts i v s k hv hu hpass hm hk hfirst hfails
  obtain rfl : t' = t := Host.Outcome.next.inj (h'.symm.trans h)
  refine ⟨k, hk, hfirst, hfails, ?_, fun hf => (hstores hf).1⟩
  cases hf : v.form.loads with
  | true =>
    obtain ⟨hbytes, -⟩ := hloads hf
    exact fun b _ => hbytes b
  | false =>
    obtain ⟨-, hbytes⟩ := hstores hf
    exact hbytes

/-! ## An STRD that aborts (R288) -/

/-- An STRD that ends in an exception has written the word at its address, where that lies in memory, and no other
byte. -/
theorem strd_aborted {i : Instr} {v : MiscView} {s t : State} (hv : miscView i = some v) (hop : v.op = .strd)
    (hm : s.mem.wf = true) (h : exec i s = .next t) (hne : t.result ≠ s.result) :
    sameMemoryBut (v.addrIn s) 4 s t ∧
    (s.inMemory .word (v.addrIn s) = false → sameMemory s t) ∧
    (s.inMemory .word (v.addrIn s) = true → t.load .word (v.addrIn s) = some (s.x v.rd)) := by
  have hchanged : t ≠ s := ne_of_apply_ne State.result hne
  obtain ⟨hpass, hguarded⟩ := ifPasses_of_ne ((exec_of_miscView s hv).symm.trans h) hchanged
  obtain ⟨hu, hguarded⟩ := unlessUnpredictable_of_ne hguarded hchanged
  obtain ⟨ha, -⟩ := unlessUnpredictable_of_ne hguarded hchanged
  cases hin : s.inMemory .word (v.addrIn s) with
  | false =>
    have hout : s.inMemory v.op.width (v.addrIn s) = false := hop ▸ hin
    obtain ⟨u, hexec, -, -, -, -, -, -, -, -, -, hmem, -⟩ := transferAborts.2 i v s hv hu ha hpass (.inl hout)
    obtain rfl : u = t := Host.Outcome.next.inj (hexec.symm.trans h)
    exact ⟨fun b _ => hmem.1 b, fun _ => hmem, nofun⟩
  | true =>
    obtain ⟨hboth, hsecond⟩ := storeDouble i v s hv hop hu ha hpass hm hin
    cases hin' : s.inMemory .word (v.addrIn s + 4#32) with
    | false =>
      obtain ⟨u, hexec, hload, hmem, -⟩ := hsecond hin'
      obtain rfl : u = t := Host.Outcome.next.inj (hexec.symm.trans h)
      exact ⟨hmem, nofun, fun _ => hload⟩
    | true =>
      obtain ⟨u, hexec, -, -, -, -, -, -, -, -, hresult⟩ := hboth hin'
      obtain rfl : u = t := Host.Outcome.next.inj (hexec.symm.trans h)
      exact absurd hresult hne

/-! ## The statement -/

/-- Settles O25: the entry is all that an instruction with an exception has done, but for the writes of the slots or the
word that its failing access left behind. -/
theorem exceptionsArePrecise : Obligations.ExceptionsArePrecise := by
  unfold Obligations.ExceptionsArePrecise
  intro i s t e hs h ht
  have hne : t.result ≠ s.result := by rw [hs, ht]; nofun
  obtain ⟨m, e', hentry, -, hmem, hcause⟩ := excepted_of_result hs h ht
  subst hentry
  obtain rfl : e' = e := Result.exception.inj ht
  obtain ⟨hreset, hirq, hfiq⟩ := hcause
  refine ⟨entered_enter .., hreset, hirq, hfiq, fun hone => ?_, fun v hv hm => block_aborted hv hm h hne,
    fun v hv hop hm => strd_aborted hv hop hm h hne⟩
  obtain rfl := hmem hone
  exact ⟨fun _ => rfl, rfl⟩

end Sys2Proof.Machine
end
